-- ==== Sys2Proof/Word.lean ====
section
/-!
DEFINITION. The widths of the SEG7 block: every quantity it handles is one unsigned byte (R10, R59), a command is
one 16-bit word (R70), a frame is 16 bytes (R120), and a cell is one of 16 (R54).
-/
namespace Sys2Proof

/-- One byte: a digit, a value, a segment pattern, a cell's data, a payload byte (R59). -/
abbrev Byte := BitVec 8

/-- A command word (R70). -/
abbrev Word := BitVec 16

/-- The index c of a display cell, at display RAM offset 2c (R54). -/
abbrev CellIdx := Fin 16

/-- A frame F[0..15]: byte F[c] is the data of cell c (R120). -/
abbrev Frame := Vector Byte 16

end Sys2Proof
end

