-- ==== Sys2Proof/Syntax.lean ====
section
/-!
DEFINITION. The rows of spec/opcode_table.json: ten commands (R72) and the three bus payloads the block emits (R79).
-/
namespace Sys2Proof

inductive Instr where
  /-- ENC d (R101). -/
  | enc (d : Byte)
  /-- DEC v (R111). -/
  | dec (v : Byte)
  /-- BFILL (R121). -/
  | bfill
  /-- BCLR (R122). -/
  | bclr
  /-- BBAR k, with the whole field A as the bar index; 0..8 are legal (R124, R75). -/
  | bbar (k : BitVec 4)
  /-- BNUM v, b (R127). -/
  | bnum (v : Byte) (b : Bool)
  /-- WRF (R130). -/
  | wrf
  /-- CRST (R131). -/
  | crst
  /-- START (R151). -/
  | start
  /-- STEP (R152). -/
  | step
  /-- The payload RST1, 0xE0 0x48 (R79, R129). -/
  | rst1
  /-- The payload RST2, 0xE0 0x70 (R79, R129). -/
  | rst2
  /-- The payload CELLWR, 0xE0 2c d (R79, R128). -/
  | cellwr (c : CellIdx) (d : Byte)
deriving DecidableEq, Repr

end Sys2Proof
end

