-- ==== Sys2Proof/WellFormed.lean ====
section
/-!
DEFINITION. Which instructions have an encoding that is legal: the bar index of BBAR is 0..8 (R75). Every other operand is
legal at every value of its type (R71, R79). The well-formedness of a configuration (R126) is Config.lean's `Layout.wf`.
-/
namespace Sys2Proof

/-- The instruction has a legal encoding. -/
def Instr.wf : Instr → Bool
  | .bbar k => decide (k.toNat ≤ 8)
  | .enc _ | .dec _ | .bfill | .bclr | .bnum _ _ | .wrf | .crst | .start | .step | .rst1 | .rst2 | .cellwr _ _ => true

/-- The instruction is one of the three payloads that travel on the bus, not a command (R79). -/
def Instr.isPayload : Instr → Bool
  | .rst1 | .rst2 | .cellwr _ _ => true
  | .enc _ | .dec _ | .bfill | .bclr | .bbar _ | .bnum _ _ | .wrf | .crst | .start | .step => false

end Sys2Proof
end

