-- ==== Sys2Proof/Decode.lean ====
section
/-!
DEFINITION. The two encodings of the block and their inverses: the 16-bit command word on CMD_IN (R70 to R75) and the
payload bytes on the bus (R79, R80); then the encoder, and the numbering of spec/opcode_table.json over both.
-/
namespace Sys2Proof

/-- Why a word or a payload is no instruction. -/
inductive DecodeError where
  /-- OP is 0x0 or 0xB to 0xF (R73). -/
  | reservedOpcode
  /-- A "must be 0" bit is set (R74). -/
  | mustBeZero
  /-- BBAR with k in 9..15 (R75). -/
  | barIndexOutOfRange
  /-- The payload is none of the three the block emits (R80). -/
  | notAPayload
deriving DecidableEq, Repr

/-- OP = CMD[15:12] (R70). -/
def fieldOp (w : Word) : BitVec 4 := w.extractLsb' 12 4
/-- A = CMD[11:8] (R70). -/
def fieldA (w : Word) : BitVec 4 := w.extractLsb' 8 4
/-- IMM8 = CMD[7:0] (R70). -/
def fieldImm (w : Word) : Byte := w.extractLsb' 0 8

/-- Accept the instruction if every bit the opcode map says must be 0 is 0 (R74). -/
def requireZero (zero : Bool) (i : Instr) : Except DecodeError Instr :=
  if zero then .ok i else .error .mustBeZero

/-- The command word's meaning by the opcode map of R72; the checks run in the order of R77 (reserved OP, "must be 0"
bits, BBAR's range). -/
def decodeCommand (w : Word) : Except DecodeError Instr :=
  let a := fieldA w
  let imm := fieldImm w
  let noOperand := decide (a = 0) && decide (imm = 0)
  match (fieldOp w).toNat with
  | 0x1 => requireZero (decide (a = 0)) (.enc imm)
  | 0x2 => requireZero (decide (a = 0)) (.dec imm)
  | 0x3 => requireZero noOperand .bfill
  | 0x4 => requireZero noOperand .bclr
  | 0x5 => if imm = 0 then (if a.toNat ≤ 8 then .ok (.bbar a) else .error .barIndexOutOfRange) else .error .mustBeZero
  | 0x6 => requireZero (decide (a.extractLsb' 1 3 = 0)) (.bnum imm (a.getLsbD 0))
  | 0x7 => requireZero noOperand .wrf
  | 0x8 => requireZero noOperand .crst
  | 0x9 => requireZero noOperand .start
  | 0xA => requireZero noOperand .step
  | _ => .error .reservedOpcode

/-- CMD_PREFIX: the first byte of every payload (R62, R79). -/
def cmdPrefix : Byte := 0xE0
/-- RESET_CMD_1 (R9). -/
def resetCmd1 : Byte := 0x48
/-- RESET_CMD_2 (R9). -/
def resetCmd2 : Byte := 0x70

/-- The payload's meaning, by its length and its bytes in the order sent (R79, R80). The offset of a cell write is even and
at most 30. -/
def decodePayload : List Byte → Except DecodeError Instr
  | [p, b] =>
    if p = cmdPrefix ∧ b = resetCmd1 then .ok .rst1
    else if p = cmdPrefix ∧ b = resetCmd2 then .ok .rst2
    else .error .notAPayload
  | [p, off, d] =>
    if p = cmdPrefix ∧ off.getLsbD 0 = false ∧ off.extractLsb' 5 3 = 0 then .ok (.cellwr (off.extractLsb' 1 4).toFin d)
    else .error .notAPayload
  | _ => .error .notAPayload

/-- The command word with these fields: CMD = (OP << 12) | (A << 8) | IMM8 (R81). -/
def commandWord (op a : BitVec 4) (imm : Byte) : Word := op ++ a ++ imm

/-- The command word of a command (R72); a bus payload has none. -/
def encodeCommand : Instr → Option Word
  | .enc d => some (commandWord 0x1 0 d)
  | .dec v => some (commandWord 0x2 0 v)
  | .bfill => some (commandWord 0x3 0 0)
  | .bclr => some (commandWord 0x4 0 0)
  | .bbar k => some (commandWord 0x5 k 0)
  | .bnum v b => some (commandWord 0x6 (if b then 1 else 0) v)
  | .wrf => some (commandWord 0x7 0 0)
  | .crst => some (commandWord 0x8 0 0)
  | .start => some (commandWord 0x9 0 0)
  | .step => some (commandWord 0xA 0 0)
  | .rst1 => none
  | .rst2 => none
  | .cellwr _ _ => none

/-- The bytes of RST1, in the order sent (R79). -/
def rst1Bytes : List Byte := [cmdPrefix, resetCmd1]
/-- The bytes of RST2, in the order sent (R79). -/
def rst2Bytes : List Byte := [cmdPrefix, resetCmd2]
/-- The bytes of the cell write of cell c, in the order sent: 0xE0, 2c, d (R79, R128). -/
def cellBytes (c : CellIdx) (d : Byte) : List Byte := [cmdPrefix, BitVec.ofNat 8 (2 * c.val), d]

/-- The payload bytes of a bus payload (R79); a command has none. -/
def encodePayload : Instr → Option (List Byte)
  | .rst1 => some rst1Bytes
  | .rst2 => some rst2Bytes
  | .cellwr c d => some (cellBytes c d)
  | .enc _ => none
  | .dec _ => none
  | .bfill => none
  | .bclr => none
  | .bbar _ => none
  | .bnum _ _ => none
  | .wrf => none
  | .crst => none
  | .start => none
  | .step => none

/-- A payload read as one number in send order, the first byte highest (R79). -/
def bytesToNat (bs : List Byte) : Nat := bs.foldl (fun n b => 256 * n + b.toNat) 0

/-- The payload bytes of a number of this many bits, the first byte highest (R79). -/
def payloadOfNat (nbits w : Nat) : List Byte :=
  match nbits with
  | 16 => [BitVec.ofNat 8 (w / 256), BitVec.ofNat 8 w]
  | 24 => [BitVec.ofNat 8 (w / 65536), BitVec.ofNat 8 (w / 256), BitVec.ofNat 8 w]
  | _ => []

/-- The instruction's length in bits and its number, as spec/opcode_table.json numbers both. -/
def encode (i : Instr) : Nat × Nat :=
  match encodeCommand i, encodePayload i with
  | some w, _ => (16, w.toNat)
  | none, some bs => (8 * bs.length, bytesToNat bs)
  | none, none => (0, 0)

/-- The instruction of a number of this many bits, as spec/opcode_table.json numbers it: a 16-bit number is a command
word, and where it is no legal command it is the 2-byte payload with those bytes; a 24-bit number is a 3-byte payload. No
number is both (OP 0xE is reserved, R73). -/
def decodeTableWord (nbits w : Nat) : Option Instr :=
  match nbits with
  | 16 =>
    match decodeCommand (BitVec.ofNat 16 w) with
    | .ok i => some i
    | .error _ => (decodePayload (payloadOfNat 16 w)).toOption
  | 24 => (decodePayload (payloadOfNat 24 w)).toOption
  | _ => none

end Sys2Proof
end

