-- ==== Sys2Proof/Config.lean ====
section
/-!
DEFINITION. What an integrator of the block fixes (the OPEN parameters of R9, held in State as data so that every claim
holds for every value of them), and the free values the spec leaves unconstrained (R32, R52, R151), which are constants
without a body. The literals the spec does give (the digit table, bar rows 0 and 8, 0x38, 0xE0, 0x48, 0x70, 200) stand with
the operations that use them: Decode.lean, Machine/Operands.lean and Machine/Ops.lean.
-/
namespace Sys2Proof.Config

/-- The answer to one bus transaction or to one bus initialisation (R50, R52). A timeout counts as `err`. -/
inductive BusResult where
  | ok
  | err
deriving DecidableEq, Repr, Inhabited

/-- The layout parameters of the numeric frame (R9, R125); no source gives them (91 N2). The field defaults only show that
the type has a value: they are the spec's example layout E (95_test_vectors.md), which is not the hardware's layout. -/
structure Layout where
  /-- NUM_BASE[0..15], the fixed icon bits. -/
  numBase   : Frame := #v[0x02, 0, 0, 0, 0, 0, 0, 0, 0, 0, 0, 0, 0, 0, 0, 0]
  unitsCell : CellIdx := 1
  tensCell  : CellIdx := 2
  hundCell  : CellIdx := 3
  hundMask  : Byte := 0x60
  battCell  : CellIdx := 0
  battMask  : Byte := 0x01
deriving DecidableEq, Repr, Inhabited

/-- extra(c) of R126, condition 3: every bit of cell c that does not come from a digit pattern. -/
def Layout.extra (l : Layout) (c : CellIdx) : Byte :=
  l.numBase[c] ||| (if c = l.hundCell then l.hundMask else 0) ||| (if c = l.battCell then l.battMask else 0)

/-- The well-formedness conditions 1 to 5 of R126, in the rule's order. -/
def Layout.wf (l : Layout) : Bool :=
  decide (l.unitsCell ≠ l.tensCell)
  && (decide (l.hundMask ≠ 0) && decide (l.battMask ≠ 0))
  && (decide (l.extra l.unitsCell &&& 0xFE = 0) && decide (l.extra l.tensCell &&& 0xFE = 0))
  && (decide (l.numBase[l.hundCell] &&& l.hundMask = 0) && decide (l.numBase[l.battCell] &&& l.battMask = 0))
  && (!decide (l.hundCell = l.battCell) || decide (l.hundMask &&& l.battMask = 0))

/-- The OPEN parameters of R9. A value carries the proof that its layout is well-formed, so that a configuration R126
refuses cannot be one (Machine/Ops.lean's `configure` refuses the raw values by name). The durations have no unit, and no
rule reads them but to hand BUS_TIMEOUT to the transport (R50, R189). -/
structure Params where
  layout     : Layout := {}
  layoutWf   : layout.wf = true := by decide
  /-- BAR_ROW[1..7] (R123, 91 N1): entry i is row i + 1. -/
  barRows    : Vector Frame 7 := Vector.replicate 7 (Vector.replicate 16 0)
  /-- BATT_INIT (R159). -/
  battInit   : Bool := false
  busTimeout : Nat := 0
  tFill      : Nat := 0
  tBar       : Nat := 0
  tRender    : Nat := 0
deriving DecidableEq, Repr, Inhabited

/-- The parameters of the machine as it is built: unconstrained but for R126. Log entry 3. -/
opaque platform : Params

/-- The result of the bus transaction with this draw number, when no answer is queued on BUS_RSP (R52). Log entry 2. -/
opaque busResult : Nat → BusResult

/-- The result of the bus initialisation with this draw number, when no answer is queued on INIT_RSP (R151). Log entry 2. -/
opaque initResult : Nat → BusResult

/-- The data bits of the read with this draw number where the valid bit is 0 (R32). Log entry 5. -/
opaque unspecifiedBits : Nat → BitVec 32

/-- What the trace records of a bus initialisation that a reset abandons before its answer (R201 says it of transactions
only). Log entry 8. -/
opaque abandonedInit : Nat → Option BusResult

end Sys2Proof.Config
end

