-- ==== Sys2Proof/Machine/State.lean ====
section
/-!
DEFINITION. The state of the block and of the three agents around it (R8): the block's registers (R22 to R28), its ports
(R20), the controller's display RAM (R54), the observable trace (R12), and what the host and the Bus Transport will present
next. All of it is plain data. Reasons a step can stop, and the state after reset (R36).
-/
namespace Sys2Proof.Machine

/-- MODE (R22): which commands the block accepts. -/
inductive Mode where
  | direct
  | sequencing
  | failed
deriving DecidableEq, Repr

/-- PHASE (R23): the last sequencer transition completed. -/
inductive Phase where
  | uninit
  | reset
  | fillTest
  | bar
  | cleared
  | rendering
deriving DecidableEq, Repr

/-- STATUS.CODE (R180). -/
inductive Code where
  | ok
  | busWriteError
  | busInitError
  | illegalCommand
  | busy
  | notStarted
  | noFrame
deriving DecidableEq, Repr

/-- STATUS.PAUSE (R25): the delay the host is asked to wait (R153). -/
inductive PauseKind where
  | none
  | fill
  | bar
  | render
deriving DecidableEq, Repr

/-- One event of the observable trace (R12). -/
inductive Event where
  /-- One bus transaction: its payload in send order, and its result. -/
  | txn (payload : List Byte) (r : Config.BusResult)
  /-- The result of the bus initialisation. -/
  | busInit (r : Config.BusResult)
  /-- One pause request. -/
  | pause (kind : PauseKind)
deriving DecidableEq, Repr

/-- A request on BUS_REQ (R20, R50): the device address, the payload in send order, and the timeout. -/
structure BusRequest where
  device  : BitVec 7
  payload : List Byte
  timeout : Nat
deriving DecidableEq, Repr

/-- What the block's surroundings present next: the host on CMD_IN, RD_ADDR and RESET_N (R20, R190), and the controller's
power supply (R56). -/
inductive PortEvent where
  /-- A word on CMD_IN (R35). -/
  | command (w : Word)
  /-- A register number on RD_ADDR (R31). -/
  | read (rn : BitVec 5)
  /-- RESET_N while no command runs (R200). -/
  | resetN
  /-- A word on CMD_IN, and RESET_N during that command: once it has emitted `after` events, with its next request
  already on the port if `inFlight` (R201). -/
  | commandThenReset (w : Word) (after : Nat) (inFlight : Bool)
  /-- The Display Controller IC is powered on (R56). -/
  | controllerPowerOn
deriving DecidableEq, Repr

/-- The controller's display RAM (R54, R55): a cell's offset is listed with its byte if the cell is Known, and an offset
that is not listed is Unknown. -/
abbrev Memory := List Host.Cell

/-- The canonical form: offsets strictly rising (so none is listed twice). -/
abbrev Memory.wf (m : Memory) : Prop := m.Pairwise (fun x y => x.1 < y.1)

/-- The block has no trap and no fault (R181, R187): errors are STATUS reports, so no step ends in a fault. -/
inductive Fault
deriving DecidableEq, Repr

/-- Why a step, or the set-up of a machine, has no meaning in this model. -/
inductive Refusal where
  /-- `exec`, for an instruction without a meaning; no arm raises it in this model. Safe. -/
  | notModelled (mnemonic : String)
  /-- `step`, where BUS_REQ holds bytes or an address this block never emits: the trace decoder of R80 reports such a payload,
  and R67 leaves every other writer out of the model. Safe. -/
  | notThisBlocksRequest
  /-- `configure`, for a layout that breaks R126. Safe. -/
  | layoutNotWellFormed
deriving DecidableEq, Repr

/-- The whole machine. -/
structure State where
  /-- MODE (R22). -/
  mode     : Mode
  /-- PHASE (R23). -/
  phase    : Phase
  /-- BARK, the bar frame index (R23). -/
  bark     : BitVec 4
  /-- RVAL, the value the sequencer shows next (R24). -/
  rval     : Byte
  /-- RBATT, the battery-low flag (R24). -/
  rbatt    : Bool
  /-- STATUS (R25). -/
  status   : BitVec 16
  /-- PAT and PAT_VALID (R26). -/
  pat      : Byte
  patValid : Bool
  /-- DECR: HUND, TENS, UNITS and DEC_VALID (R27). -/
  hund     : Bool
  tens     : Byte
  units    : Byte
  decValid : Bool
  /-- FB[0..15] and FB_VALID (R28). -/
  fb       : Frame
  fbValid  : Bool
  /-- BUS_REQ: the transaction that has no answer yet, at most one (R20, R53). -/
  busReq   : Option BusRequest
  /-- RD_DATA: the word the last read returned (R20, R31). -/
  rdData   : BitVec 32
  /-- The controller's display RAM (R54, R55). -/
  dram     : Memory
  /-- The observable trace, oldest event first (R12). -/
  trace    : List Event
  /-- What the host presents next, in order (R35, R190); none of it is storage of the block. -/
  host     : List PortEvent
  /-- The answers the Bus Transport gives on BUS_RSP next (R50, R52); past its end the answers are free. -/
  busRsp   : List Config.BusResult
  /-- The answers on INIT_RSP next (R20, R151); past its end the answers are free. -/
  initRsp  : List Config.BusResult
  /-- The model's own counter of free values drawn so far; not the spec's. -/
  draws    : Nat
  /-- The OPEN parameters and the constant tables built from them (R9, R30); no step changes it. -/
  cfg      : Config.Params
deriving DecidableEq, Repr

/-- The machine after a block reset at power-on (R36, R56): every register as R36 gives it, and PAT, DECR and FB, which R36
leaves unspecified, at zero (log entry 4). No cell is Known. -/
def State.reset : State where
  mode     := .direct
  phase    := .uninit
  bark     := 0
  rval     := 0
  rbatt    := false
  status   := 0
  pat      := 0
  patValid := false
  hund     := false
  tens     := 0
  units    := 0
  decValid := false
  fb       := #v[0, 0, 0, 0, 0, 0, 0, 0, 0, 0, 0, 0, 0, 0, 0, 0]
  fbValid  := false
  busReq   := none
  rdData   := 0
  dram     := []
  trace    := []
  host     := []
  busRsp   := []
  initRsp  := []
  draws    := 0
  cfg      := Config.platform

end Sys2Proof.Machine
end

