-- ==== Sys2Proof/Machine/Flags.lean ====
section
/-!
DEFINITION. The encodings of MODE, PHASE and STATUS (R22, R23, R25, R180), and the word each register number reads as (R31,
R32).
-/
namespace Sys2Proof.Machine

/-- The encoding of MODE (R22). -/
def Mode.bits : Mode → BitVec 2
  | .direct => 0
  | .sequencing => 1
  | .failed => 2

/-- The encoding of PHASE (R23). -/
def Phase.bits : Phase → BitVec 3
  | .uninit => 0
  | .reset => 1
  | .fillTest => 2
  | .bar => 3
  | .cleared => 4
  | .rendering => 5

/-- The encoding of STATUS.CODE (R180). -/
def Code.bits : Code → BitVec 4
  | .ok => 0
  | .busWriteError => 1
  | .busInitError => 2
  | .illegalCommand => 3
  | .busy => 4
  | .notStarted => 5
  | .noFrame => 6

/-- The encoding of STATUS.PAUSE (R25). -/
def PauseKind.bits : PauseKind → BitVec 2
  | .none => 0
  | .fill => 1
  | .bar => 2
  | .render => 3

/-- STATUS with these fields, its reserved bits 0 (R25). -/
def statusWord (code : Code) (failIdx : BitVec 4) (pause : PauseKind) : BitVec 16 :=
  0#6 ++ pause.bits ++ failIdx ++ code.bits

/-- STATUS.CODE, bits 3:0 (R25). -/
def State.code (s : State) : BitVec 4 := s.status.extractLsb' 0 4
/-- STATUS.FAIL_IDX, bits 7:4 (R25). -/
def State.failIdx (s : State) : BitVec 4 := s.status.extractLsb' 4 4
/-- STATUS.PAUSE, bits 9:8 (R25). -/
def State.pause (s : State) : BitVec 2 := s.status.extractLsb' 8 2
/-- STATUS bits 15:10, reserved (R25). -/
def State.statusReserved (s : State) : BitVec 6 := s.status.extractLsb' 10 6

/-- A read word with its valid bit at 31: the data where the bit is 1, unspecified bits of the same width where it is 0
(R32). -/
def validWord {n : Nat} (valid : Bool) (data free : BitVec n) : BitVec 32 :=
  BitVec.ofBool valid ++ ((if valid then data else free).setWidth 31)

/-- The word register number RN reads as (R31); `free` supplies the bits R32 leaves unspecified. -/
def readWord (s : State) (rn : BitVec 5) (free : BitVec 32) : BitVec 32 :=
  match rn.toNat with
  | 0 => s.status.setWidth 32
  | 1 => validWord s.patValid s.pat (free.setWidth 8)
  | 2 => validWord s.decValid (BitVec.ofBool s.hund ++ s.tens ++ s.units) (free.setWidth 17)
  | 3 => 0#22 ++ s.mode.bits ++ s.bark ++ 0#1 ++ s.phase.bits
  | 4 => 0#23 ++ BitVec.ofBool s.rbatt ++ s.rval
  | 5 => 0#31 ++ BitVec.ofBool s.fbValid
  | n => if n < 16 then 0 else validWord s.fbValid (s.fb[(n - 16) % 16]) (free.setWidth 8)

end Sys2Proof.Machine
end

