-- ==== Sys2Proof/Machine/Operands.lean ====
section
/-!
DEFINITION. The block's pure functions from operands to patterns and frames: the Segment Encoder and its inverse (R100,
R102), the Value Decomposer (R110, R114), the four frame kinds (R120 to R125) and the read-back of a numeric frame (R126).
-/
namespace Sys2Proof.Machine

/-- BLANK: the pattern that lights nothing (R9, R13). -/
def blank : Byte := 0x00

/-- `encode_digit`: the 10-entry table, and BLANK for every other input (R100). -/
def encodeDigit (d : Byte) : Byte :=
  match d.toNat with
  | 0 => 0xFA
  | 1 => 0x60
  | 2 => 0xBC
  | 3 => 0xF4
  | 4 => 0x66
  | 5 => 0xD6
  | 6 => 0xDE
  | 7 => 0x70
  | 8 => 0xFE
  | 9 => 0xF6
  | _ => blank

/-- What `decode_pattern` reads from a pattern (R102). -/
inductive Reading where
  | digit (d : Nat)
  | blank
  | undefined
deriving DecidableEq, Repr

/-- `decode_pattern`, the inverse of the table (R102). -/
def decodePattern (p : Byte) : Reading :=
  if p = blank then .blank
  else
    match (List.range 10).find? (fun d => encodeDigit (BitVec.ofNat 8 d) = p) with
    | some d => .digit d
    | none => .undefined

/-- A triple (hundreds_flag, tens_pattern, units_pattern) (R110). -/
structure Digits where
  hund  : Bool
  tens  : Byte
  units : Byte
deriving DecidableEq, Repr

/-- `decompose` (R110): the ranges in the rule's order. -/
def decompose (v : Byte) : Digits :=
  let n := v.toNat
  let unit := encodeDigit (BitVec.ofNat 8 (n % 10))
  let ten := encodeDigit (BitVec.ofNat 8 (n / 10 % 10))
  if n < 10 then ⟨false, blank, unit⟩
  else if n < 100 then ⟨false, ten, unit⟩
  else ⟨true, ten, unit⟩

/-- The number a triple shows, as R114 reads it: 100*h + 10*tval + uval; none where a pattern is no digit. -/
def Digits.value? (t : Digits) : Option Nat :=
  let h := if t.hund then 100 else 0
  match decodePattern t.units, decodePattern t.tens with
  | .digit u, .digit d => some (h + 10 * d + u)
  | .digit u, .blank => some (h + u)
  | _, _ => none

/-- The frame whose byte at cell c is `f c`. -/
def frameOf (f : CellIdx → Byte) : Frame :=
  #v[f 0, f 1, f 2, f 3, f 4, f 5, f 6, f 7, f 8, f 9, f 10, f 11, f 12, f 13, f 14, f 15]

/-- The all-segments-on frame, sixteen FILL_BYTE (R121). -/
def fillFrame : Frame := frameOf fun _ => 0xFF

/-- The all-segments-off frame, sixteen CLEAR_BYTE (R122). -/
def clearFrame : Frame := frameOf fun _ => 0x00

/-- BAR_ROW[0] (R123). -/
def barRowFirst : Frame := #v[0x0E, 0, 0, 0, 0, 0, 0, 0, 0, 0, 0, 0, 0, 0, 0, 0]

/-- BAR_ROW[8] (R123). -/
def barRowLast : Frame := #v[0x0E, 0xFF, 0xFF, 0xFF, 0, 0, 0, 0, 0, 0, 0, 0, 0, 0, 0, 0]

/-- BAR_ROW[k] for k in 0..8 (R123): rows 1 to 7 are the parameter. No rule asks for a row above 8; row 8 stands there. -/
def barRow (cfg : Config.Params) (k : Nat) : Frame :=
  match k with
  | 0 => barRowFirst
  | 1 => cfg.barRows[0]
  | 2 => cfg.barRows[1]
  | 3 => cfg.barRows[2]
  | 4 => cfg.barRows[3]
  | 5 => cfg.barRows[4]
  | 6 => cfg.barRows[5]
  | 7 => cfg.barRows[6]
  | _ => barRowLast

/-- The byte of one cell of a numeric frame: the parts combine by OR, each in its own cell (R125). -/
def numByte (l : Config.Layout) (t : Digits) (b : Bool) (c : CellIdx) : Byte :=
  l.numBase[c]
    ||| (if c = l.unitsCell then t.units else 0)
    ||| (if c = l.tensCell then t.tens else 0)
    ||| (if c = l.hundCell ∧ t.hund then l.hundMask else 0)
    ||| (if c = l.battCell ∧ b then l.battMask else 0)

/-- `num_frame(v, b)` (R125). -/
def numFrame (l : Config.Layout) (v : Byte) (b : Bool) : Frame := frameOf (numByte l (decompose v) b)

/-- The digits and the hundreds flag read back from a numeric frame (R126). -/
def frameDigits (l : Config.Layout) (f : Frame) : Digits where
  hund  := decide (f[l.hundCell] &&& l.hundMask ≠ 0)
  tens  := f[l.tensCell] &&& 0xFE
  units := f[l.unitsCell] &&& 0xFE

/-- The battery bit read back from a numeric frame (R126). -/
def frameBattery (l : Config.Layout) (f : Frame) : Bool := decide (f[l.battCell] &&& l.battMask ≠ 0)

/-- COUNT_MODULUS (R9, 90_conflicts.md C2). -/
def countModulus : Nat := 200

/-- The value after v in the counting loop (R160). -/
def nextValue (v : Byte) : Byte := BitVec.ofNat 8 ((v.toNat + 1) % countModulus)

end Sys2Proof.Machine
end

