-- ==== Sys2Proof/Machine/Ops.lean ====
section
/-!
DEFINITION. The operations the commands share (R11): one bus transaction and what it does to the display RAM (R50 to R57),
the frame writer and the controller reset (R128, R129), STATUS reports and refusals (R76, R78, R181), pauses (R153), the bus
initialisation (R151), the block reset (R200, R201), and the check of a configuration (R126).
-/
namespace Sys2Proof.Machine

/-- The byte of the cell at this offset if it is Known (R55). -/
def Memory.read : Memory → Nat → Option Byte
  | [], _ => none
  | (k, v) :: m, a => if k = a then some v else Memory.read m a

/-- The cell at offset a becomes Known(b) (R55). -/
def Memory.write : Memory → Nat → Byte → Memory
  | [], a, b => [(a, b)]
  | (k, v) :: m, a, b =>
    if a < k then (a, b) :: (k, v) :: m
    else if a = k then (a, b) :: m
    else (k, v) :: Memory.write m a b

/-- The cell at offset a becomes Unknown (R55). -/
def Memory.forget : Memory → Nat → Memory
  | [], _ => []
  | (k, v) :: m, a => if k = a then Memory.forget m a else (k, v) :: Memory.forget m a

/-- DEV_ADDR, the one device on the bus (R9, R50, R62). -/
def devAddr : BitVec 7 := 0x38

/-- What a transaction with this payload and result does to the display RAM: a cell write changes its cell (R55), and a
reset write makes every cell Unknown whatever its result (R57). -/
def deliver (payload : List Byte) (r : Config.BusResult) (m : Memory) : Memory :=
  match decodePayload payload with
  | .ok (.cellwr c d) =>
    match r with
    | .ok => m.write (2 * c.val) d
    | .err => m.forget (2 * c.val)
  | .ok .rst1 => []
  | .ok .rst2 => []
  | .ok _ => m
  | .error _ => m

/-- What an event of the trace does to the display RAM (R63). -/
def Event.deliver (m : Memory) : Event → Memory
  | .txn payload r => Sys2Proof.Machine.deliver payload r m
  | .busInit _ => m
  | .pause _ => m

/-- `emit e`: the event is appended to the trace (R11). -/
def emit (e : Event) (s : State) : State := { s with trace := s.trace ++ [e] }

/-- The block puts a request for device 0x38 on BUS_REQ (R50). -/
def issue (payload : List Byte) (s : State) : State :=
  { s with busReq := some { device := devAddr, payload := payload, timeout := s.cfg.busTimeout } }

/-- The request on BUS_REQ ends with this result: the display RAM and the trace take the transaction, and the port is free
again (R11, R53). -/
def settle (r : Config.BusResult) (s : State) : State :=
  match s.busReq with
  | none => s
  | some q => emit (.txn q.payload r) { s with busReq := none, dram := deliver q.payload r s.dram }

/-- The result of the next transaction: the answer queued on BUS_RSP, and a free value where none is queued (R52). -/
def nextAnswer (s : State) : Config.BusResult :=
  match s.busRsp with
  | r :: _ => r
  | [] => Config.busResult s.draws

/-- The answer is taken from BUS_RSP. -/
def dropAnswer (s : State) : State :=
  match s.busRsp with
  | _ :: rest => { s with busRsp := rest }
  | [] => { s with draws := s.draws + 1 }

/-- `BusWrite(payload)` (R11): issue the request, wait for its result, and only then go on (R53). -/
def busWrite (payload : List Byte) (s : State) : Config.BusResult × State :=
  let r := nextAnswer s
  (r, settle r (dropAnswer (issue payload s)))

/-- `BusInit()` (R11, R151): one answer from INIT_RSP, and a free value where none is queued. -/
def busInit (s : State) : Config.BusResult × State :=
  match s.initRsp with
  | r :: rest => (r, emit (.busInit r) { s with initRsp := rest })
  | [] =>
    let r := Config.initResult s.draws
    (r, emit (.busInit r) { s with draws := s.draws + 1 })

/-- What a frame write or a reset pair returns: Ok, or the index of its first failing transaction (R128, R129). -/
inductive WriteResult where
  | ok
  | err (i : BitVec 4)
deriving DecidableEq, Repr

/-- The frame buffer takes a whole frame, and FB_VALID is set (R28, R120). -/
def loadFrame (f : Frame) (s : State) : State := { s with fb := f, fbValid := true }

/-- The cells in address order (R128). -/
def allCells : List CellIdx := [0, 1, 2, 3, 4, 5, 6, 7, 8, 9, 10, 11, 12, 13, 14, 15]

/-- The cell writes of `write_frame` for these cells, in order, up to the first error (R128). -/
def writeCells (f : Frame) : List CellIdx → State → WriteResult × State
  | [], s => (.ok, s)
  | c :: cs, s =>
    match busWrite (cellBytes c f[c]) s with
    | (.ok, t) => writeCells f cs t
    | (.err, t) => (.err (BitVec.ofNat 4 c.val), t)

/-- `write_frame()` (R128): it ends with FB_VALID = 0 in either case. -/
def writeFrame (s : State) : WriteResult × State :=
  let (res, t) := writeCells s.fb allCells s
  (res, { t with fbValid := false })

/-- A frame is built whole into FB and sent (R152). -/
def sendFrame (f : Frame) (s : State) : WriteResult × State := writeFrame (loadFrame f s)

/-- `reset_controller()` (R129): both writes are issued, and the first failure is reported. -/
def resetController (s : State) : WriteResult × State :=
  let (r0, s0) := busWrite rst1Bytes s
  let (r1, s1) := busWrite rst2Bytes s0
  match r0, r1 with
  | .err, _ => (.err 0, s1)
  | .ok, .err => (.err 1, s1)
  | .ok, .ok => (.ok, s1)

/-- `raise CODE(info)`, and the report of OK: the whole of STATUS is written (R25, R181). It is the block's only way to report
an error; there is no trap entry and no return (R187). -/
def report (code : Code) (failIdx : BitVec 4) (pause : PauseKind) (s : State) : State :=
  { s with status := statusWord code failIdx pause }

/-- A command that completed with no error and asks for no pause. -/
def complete (s : State) : State := report .ok 0 .none s

/-- A refused command: STATUS alone is written (R78). -/
def refuse (code : Code) (s : State) : State := report code 0 .none s

/-- STATUS from the result of a command's bus writes, with the pause it asks for (R152, R182). -/
def reportWrite (res : WriteResult) (pause : PauseKind) (s : State) : State :=
  match res with
  | .ok => report .ok 0 pause s
  | .err i => report .busWriteError i pause s

/-- The trace event of a pause request; none where no pause is named (R153). -/
def requestPause (kind : PauseKind) (s : State) : State :=
  match kind with
  | .none => s
  | .fill => emit (.pause .fill) s
  | .bar => emit (.pause .bar) s
  | .render => emit (.pause .render) s

/-- The code a legal command that needs MODE = DIRECT is refused with (R76). -/
def directCode : Mode → Option Code
  | .direct => none
  | .sequencing => some .busy
  | .failed => some .busInitError

/-- The code STEP is refused with (R76). -/
def stepCode : Mode → Option Code
  | .direct => some .notStarted
  | .sequencing => none
  | .failed => some .busInitError

/-- Run the command, unless the table of R76 gives a code for it. -/
def unlessRefused (code : Option Code) (run : State → State) (s : State) : State :=
  match code with
  | some c => refuse c s
  | none => run s

/-- The block reset (R200): a request in flight counts as Err (R201), every block register takes its value of R36, and the
display RAM, the trace, the parameters and what the other agents will present stay. -/
def blockReset (s : State) : State :=
  let t := settle .err s
  { State.reset with
    rdData := t.rdData, dram := t.dram, trace := t.trace, host := t.host, busRsp := t.busRsp, initRsp := t.initRsp,
    draws := t.draws, cfg := t.cfg }

/-- The transactions among these events. -/
def countTxns (es : List Event) : Nat :=
  es.countP fun e => match e with
    | .txn _ _ => true
    | .busInit _ => false
    | .pause _ => false

/-- The bus initialisations among these events. -/
def countInits (es : List Event) : Nat :=
  es.countP fun e => match e with
    | .txn _ _ => false
    | .busInit _ => true
    | .pause _ => false

/-- The state of the other agents after a command has emitted these events and no more: the display RAM is the fold of R63
over them, and their answers are used up. -/
def replay (es : List Event) (s : State) : State :=
  { s with
    trace := s.trace ++ es, dram := es.foldl Event.deliver s.dram,
    busRsp := s.busRsp.drop (countTxns es), initRsp := s.initRsp.drop (countInits es) }

/-- The next thing the command would have emitted is already on its port, without an answer (R201). -/
def leaveInFlight (next : Option Event) (s : State) : State :=
  match next with
  | some (.txn payload _) => issue payload s
  | some (.busInit _) =>
    match Config.abandonedInit s.draws with
    | some r => emit (.busInit r) { s with draws := s.draws + 1 }
    | none => { s with draws := s.draws + 1 }
  | some (.pause _) => s
  | none => s

/-- A reset during a command that takes s to t when nothing interrupts it (R201): the command's first `n` events happen, the
one after them is in flight if `inFlight`, nothing more is issued, and the block resets. -/
def resetDuring (s t : State) (n : Nat) (inFlight : Bool) : State :=
  let es := t.trace.drop s.trace.length
  let mid := { replay (es.take n) s with draws := t.draws }
  blockReset (if inFlight then leaveInFlight es[n]? mid else mid)

/-- Build the machine with these parameters, or refuse a layout that breaks R126. -/
def configure (layout : Config.Layout) (barRows : Vector Frame 7) (battInit : Bool)
    (busTimeout tFill tBar tRender : Nat) (s : State) : Host.Outcome State Fault Refusal :=
  if h : layout.wf = true then
    .next { s with cfg := {
      layout := layout, layoutWf := h, barRows := barRows, battInit := battInit, busTimeout := busTimeout,
      tFill := tFill, tBar := tBar, tRender := tRender } }
  else .refused .layoutNotWellFormed

end Sys2Proof.Machine
end

