-- ==== Sys2Proof/Machine/Decomposer.lean ====
section
/-!
DEFINITION. DEC (R111).
-/
namespace Sys2Proof.Machine

/-- DEC v (R111): it runs in every MODE (R76). -/
def execDec (v : Byte) (s : State) : Host.Outcome State Fault Refusal :=
  let t := decompose v
  .next (complete { s with hund := t.hund, tens := t.tens, units := t.units, decValid := true })

end Sys2Proof.Machine
end

