-- ==== Sys2Proof/Machine/Encoder.lean ====
section
/-!
DEFINITION. ENC (R101).
-/
namespace Sys2Proof.Machine

/-- ENC d (R101): it runs in every MODE (R76). -/
def execEnc (d : Byte) (s : State) : Host.Outcome State Fault Refusal :=
  .next (complete { s with pat := encodeDigit d, patValid := true })

end Sys2Proof.Machine
end

