-- ==== Sys2Proof/Machine/Frames.lean ====
section
/-!
DEFINITION. The frame-build commands BFILL, BCLR, BBAR and BNUM (R121, R122, R124, R127). Each needs MODE = DIRECT (R76).
-/
namespace Sys2Proof.Machine

/-- A build command in a MODE that admits it: the whole frame goes to FB and nothing is sent (R120). -/
def buildFrame (f : Frame) (s : State) : State :=
  unlessRefused (directCode s.mode) (fun t => complete (loadFrame f t)) s

/-- BFILL (R121). -/
def execBfill (s : State) : Host.Outcome State Fault Refusal := .next (buildFrame fillFrame s)

/-- BCLR (R122). -/
def execBclr (s : State) : Host.Outcome State Fault Refusal := .next (buildFrame clearFrame s)

/-- BBAR k (R124). An index of 9..15 is an illegal command in every MODE (R75, R77); the decoder rejects its words, and an
instruction built with one is refused in the same way (log entry 14). -/
def execBbar (k : BitVec 4) (s : State) : Host.Outcome State Fault Refusal :=
  if k.toNat ≤ 8 then .next (buildFrame (barRow s.cfg k.toNat) s)
  else .next (refuse .illegalCommand s)

/-- BNUM v, b (R127). -/
def execBnum (v : Byte) (b : Bool) (s : State) : Host.Outcome State Fault Refusal :=
  .next (buildFrame (numFrame s.cfg.layout v b) s)

end Sys2Proof.Machine
end

