-- ==== Sys2Proof/Machine/Sequencer.lean ====
section
/-!
DEFINITION. START and STEP (R151, R152), and the transitions of the sequencer (R154 to R160). A failed write never stops a
transition (R161): each writes its registers, asks for its pause and reports.
-/
namespace Sys2Proof.Machine

/-- START where MODE admits it (R151, R183). -/
def startBus (s : State) : State :=
  match busInit s with
  | (.ok, t) => complete { t with mode := .sequencing }
  | (.err, t) => refuse .busInitError { t with mode := .failed }

/-- START (R151). -/
def execStart (s : State) : Host.Outcome State Fault Refusal :=
  .next (unlessRefused (directCode s.mode) startBus s)

/-- The end of a transition: its pause is requested after its last transaction (R153), and STATUS is written from the
result of its writes (R152). -/
def finishTransition (res : WriteResult) (kind : PauseKind) (s : State) : State :=
  reportWrite res kind (requestPause kind s)

/-- Uninit to Reset (R154). -/
def toReset (s : State) : State :=
  let (res, t) := resetController s
  finishTransition res .none { t with phase := .reset }

/-- Reset to FillTest (R155). -/
def toFillTest (s : State) : State :=
  let (res, t) := sendFrame fillFrame s
  finishTransition res .fill { t with phase := .fillTest }

/-- FillTest to BarAnimating(0) (R156). -/
def toFirstBar (s : State) : State :=
  let (res, t) := sendFrame (barRow s.cfg 0) s
  finishTransition res .bar { t with phase := .bar, bark := 0 }

/-- BarAnimating(k) to BarAnimating(k+1), for k < 8 (R157). -/
def toNextBar (s : State) : State :=
  let k := s.bark
  let (res, t) := sendFrame (barRow s.cfg (k.toNat + 1)) s
  finishTransition res .bar { t with bark := k + 1 }

/-- BarAnimating(8) to Cleared (R158). -/
def toCleared (s : State) : State :=
  let (res, t) := sendFrame clearFrame s
  finishTransition res .none { t with phase := .cleared, bark := 0 }

/-- Cleared to Rendering(0, BATT_INIT): no transaction (R159). -/
def toRendering (s : State) : State :=
  finishTransition .ok .none { s with rval := 0, rbatt := s.cfg.battInit, phase := .rendering }

/-- Rendering(v, b) to Rendering(v', not b): the frame shows the flag's value from before the toggle (R160). -/
def renderNext (s : State) : State :=
  let v := s.rval
  let b := s.rbatt
  let (res, t) := sendFrame (numFrame s.cfg.layout v b) s
  finishTransition res .render { t with rbatt := !b, rval := nextValue v }

/-- The sequencer's one transition from PHASE and BARK (R152). -/
def transition (s : State) : State :=
  match s.phase with
  | .uninit => toReset s
  | .reset => toFillTest s
  | .fillTest => toFirstBar s
  | .bar => if s.bark.toNat < 8 then toNextBar s else toCleared s
  | .cleared => toRendering s
  | .rendering => renderNext s

/-- STEP (R152). -/
def execStep (s : State) : Host.Outcome State Fault Refusal :=
  .next (unlessRefused (stepCode s.mode) transition s)

end Sys2Proof.Machine
end

