-- ==== Sys2Proof/Machine/Writer.lean ====
section
/-!
DEFINITION. WRF and CRST (R130, R131), and the three bus payloads (R79): a payload's meaning is its transaction, that is the
result the transport draws (R52), the event in the trace (R11) and its effect on the display RAM (R55, R57).
-/
namespace Sys2Proof.Machine

/-- WRF where MODE admits it (R130). -/
def writeHeldFrame (s : State) : State :=
  if s.fbValid then
    let (res, t) := writeFrame s
    reportWrite res .none t
  else refuse .noFrame s

/-- WRF (R130). -/
def execWrf (s : State) : Host.Outcome State Fault Refusal :=
  .next (unlessRefused (directCode s.mode) writeHeldFrame s)

/-- CRST where MODE admits it (R131). -/
def writeReset (s : State) : State :=
  let (res, t) := resetController s
  reportWrite res .none t

/-- CRST (R131). -/
def execCrst (s : State) : Host.Outcome State Fault Refusal :=
  .next (unlessRefused (directCode s.mode) writeReset s)

/-- The transaction RST1 (R129, R57). -/
def execRst1 (s : State) : Host.Outcome State Fault Refusal := .next (busWrite rst1Bytes s).2

/-- The transaction RST2 (R129, R57). -/
def execRst2 (s : State) : Host.Outcome State Fault Refusal := .next (busWrite rst2Bytes s).2

/-- The transaction CELLWR for cell c and byte d (R128, R55). -/
def execCellwr (c : CellIdx) (d : Byte) (s : State) : Host.Outcome State Fault Refusal :=
  .next (busWrite (cellBytes c d) s).2

end Sys2Proof.Machine
end

