-- ==== Sys2Proof/Machine/Dispatch.lean ====
section
/-!
DEFINITION. Every instruction's meaning, one arm per constructor.
-/
namespace Sys2Proof.Machine

def exec (i : Instr) (s : State) : Host.Outcome State Fault Refusal :=
  match i with
  | .enc d => Sys2Proof.Machine.execEnc d s
  | .dec v => Sys2Proof.Machine.execDec v s
  | .bfill => Sys2Proof.Machine.execBfill s
  | .bclr => Sys2Proof.Machine.execBclr s
  | .bbar k => Sys2Proof.Machine.execBbar k s
  | .bnum v b => Sys2Proof.Machine.execBnum v b s
  | .wrf => Sys2Proof.Machine.execWrf s
  | .crst => Sys2Proof.Machine.execCrst s
  | .start => Sys2Proof.Machine.execStart s
  | .step => Sys2Proof.Machine.execStep s
  | .rst1 => Sys2Proof.Machine.execRst1 s
  | .rst2 => Sys2Proof.Machine.execRst2 s
  | .cellwr c d => Sys2Proof.Machine.execCellwr c d s

end Sys2Proof.Machine
end

