-- ==== Sys2Proof/Machine/Ports.lean ====
section
/-!
DEFINITION. What the machine does with what stands on its ports (R20): the transaction on BUS_REQ first (R53), else the host's
next event (R35). A command word is decoded and checked here (R73 to R77); the host's reads and RESET_N are no commands.
-/
namespace Sys2Proof.Machine

/-- A word taken from CMD_IN: its instruction runs, and an illegal word is refused with ILLEGAL_COMMAND (R73 to R75). -/
def runCommand (w : Word) (s : State) : Host.Outcome State Fault Refusal :=
  match decodeCommand w with
  | .ok i => exec i s
  | .error _ => .next (refuse .illegalCommand s)

/-- A read of register number RN (R31): only the port's output changes, and the draw of R32 is used up. -/
def readRegister (rn : BitVec 5) (s : State) : State :=
  { s with rdData := readWord s rn (Config.unspecifiedBits s.draws), draws := s.draws + 1 }

/-- The controller's power-on (R56): every cell is Unknown. -/
def powerOnController (s : State) : State := { s with dram := [] }

/-- One event that the block's surroundings present. -/
def serveEvent (e : PortEvent) (s : State) : Host.Outcome State Fault Refusal :=
  match e with
  | .command w => runCommand w s
  | .read rn => .next (readRegister rn s)
  | .resetN => .next (blockReset s)
  | .commandThenReset w n inFlight =>
    match runCommand w s with
    | .next t => .next (resetDuring s t n inFlight)
    | .fault f => .fault f
    | .refused r => .refused r
  | .controllerPowerOn => .next (powerOnController s)

/-- The transport answers the request on BUS_REQ: the payload's instruction runs. A payload or an address that is not this
block's is refused (R67, R80). -/
def serveRequest (q : BusRequest) (s : State) : Host.Outcome State Fault Refusal :=
  if q.device = devAddr then
    match decodePayload q.payload with
    | .ok i => exec i { s with busReq := none }
    | .error _ => .refused .notThisBlocksRequest
  else .refused .notThisBlocksRequest

/-- One step: RESET_N acts at once, even on a request in flight (R201); else the request on BUS_REQ ends; else the host's next
event is served; with nothing presented the block waits (R186, R202). -/
def stepPorts (s : State) : Host.Outcome State Fault Refusal :=
  match s.busReq, s.host with
  | some q, .resetN :: rest => .next (blockReset { s with busReq := some q, host := rest })
  | some q, _ => serveRequest q s
  | none, e :: rest => serveEvent e { s with host := rest }
  | none, [] => .next s

/-- A payload of the block stands on BUS_REQ, and RESET_N is not asserted before it is answered. -/
def presentPayload (payload : List Byte) (s : State) : State :=
  issue payload { s with host := s.host.dropWhile (fun e => decide (e = .resetN)) }

/-- The instruction of this number (numbered as spec/opcode_table.json numbers it) stands where the next step takes it: a
payload of the block on BUS_REQ, and any other 16-bit word at the head of what the host presents on CMD_IN. -/
def presentWord (s : State) (nbits w : Nat) : State :=
  match nbits with
  | 24 => presentPayload (payloadOfNat 24 w) s
  | _ =>
    match decodePayload (payloadOfNat 16 w) with
    | .ok _ => presentPayload (payloadOfNat 16 w) s
    | .error _ => { s with busReq := none, host := .command (BitVec.ofNat 16 w) :: s.host }

end Sys2Proof.Machine
end

