-- ==== Sys2Proof/Machine/Step.lean ====
section
/-!
DEFINITION. One step of the machine, and the placing of one instruction for it. Both are Machine/Ports.lean's.
-/
namespace Sys2Proof.Machine

/-- One step (R34: a command runs from start to end as one unit). -/
def step (s : State) : Host.Outcome State Fault Refusal := Sys2Proof.Machine.stepPorts s

/-- `s` with the instruction of this number where `step` takes its next one. -/
def State.withFetchWord (s : State) (nbits w : Nat) : State := Sys2Proof.Machine.presentWord s nbits w

end Sys2Proof.Machine
end

