-- ==== Sys2Proof/Machine/Assembler.lean ====
section
/-!
DEFINITION. The assembly syntax of R81 and the pseudo-instructions of R82: one line of text to its command words. A line that
is not one of these forms, or has an operand outside its range, is refused (`none`); no operand is ever truncated.
-/
namespace Sys2Proof.Machine

/-- The digit's value in decimal (R81). -/
def decimalDigit (c : Char) : Option Nat :=
  if 48 ≤ c.toNat ∧ c.toNat ≤ 57 then some (c.toNat - 48) else none

/-- The digit's value in hex, in either case (R81). -/
def hexDigit (c : Char) : Option Nat :=
  if 97 ≤ c.toNat ∧ c.toNat ≤ 102 then some (c.toNat - 87)
  else if 65 ≤ c.toNat ∧ c.toNat ≤ 70 then some (c.toNat - 55)
  else decimalDigit c

/-- The number these digits write in this base, on top of the digits read so far. -/
def parseDigits (base : Nat) (digit : Char → Option Nat) : Nat → List Char → Option Nat
  | n, [] => some n
  | n, c :: cs => (digit c).bind fun d => parseDigits base digit (base * n + d) cs

/-- A number: decimal, or hex with a 0x prefix (R81). -/
def parseNumber : List Char → Option Nat
  | [] => none
  | ['0', 'x'] => none
  | '0' :: 'x' :: cs => parseDigits 16 hexDigit 0 cs
  | cs => parseDigits 10 decimalDigit 0 cs

/-- The text without the spaces around it. -/
def trim (cs : List Char) : List Char :=
  ((cs.dropWhile (· == ' ')).reverse.dropWhile (· == ' ')).reverse

/-- The pieces between commas. -/
def splitCommas : List Char → List (List Char)
  | [] => [[]]
  | c :: cs =>
    if c = ',' then [] :: splitCommas cs
    else match splitCommas cs with
      | [] => [[c]]
      | p :: ps => (c :: p) :: ps

/-- The operand list of a line: nothing, or numbers separated by commas (R81). -/
def parseOperands (cs : List Char) : Option (List Nat) :=
  if trim cs = [] then some [] else (splitCommas cs).mapM fun p => parseNumber (trim p)

/-- A letter in lower case: mnemonics are not case-sensitive (R81). -/
def lower (c : Char) : Char := if 65 ≤ c.toNat ∧ c.toNat ≤ 90 then Char.ofNat (c.toNat + 32) else c

/-- The instructions a line stands for, by its mnemonic in lower case and its operands: one command, or the two of a
pseudo-instruction (R81, R82). -/
def expandLine (mnemonic : List Char) (operands : List Nat) : Option (List Instr) :=
  match mnemonic, operands with
  | ['e', 'n', 'c'], [d] => if d ≤ 255 then some [.enc (BitVec.ofNat 8 d)] else none
  | ['d', 'e', 'c'], [v] => if v ≤ 255 then some [.dec (BitVec.ofNat 8 v)] else none
  | ['b', 'f', 'i', 'l', 'l'], [] => some [.bfill]
  | ['b', 'c', 'l', 'r'], [] => some [.bclr]
  | ['b', 'b', 'a', 'r'], [k] => if k ≤ 8 then some [.bbar (BitVec.ofNat 4 k)] else none
  | ['b', 'n', 'u', 'm'], [v, b] => if v ≤ 255 ∧ b ≤ 1 then some [.bnum (BitVec.ofNat 8 v) (b == 1)] else none
  | ['w', 'r', 'f'], [] => some [.wrf]
  | ['c', 'r', 's', 't'], [] => some [.crst]
  | ['s', 't', 'a', 'r', 't'], [] => some [.start]
  | ['s', 't', 'e', 'p'], [] => some [.step]
  | ['f', 'i', 'l', 'l'], [] => some [.bfill, .wrf]
  | ['c', 'l', 'e', 'a', 'r'], [] => some [.bclr, .wrf]
  | ['b', 'a', 'r'], [k] => if k ≤ 8 then some [.bbar (BitVec.ofNat 4 k), .wrf] else none
  | ['s', 'h', 'o', 'w'], [v, b] => if v ≤ 255 ∧ b ≤ 1 then some [.bnum (BitVec.ofNat 8 v) (b == 1), .wrf] else none
  | _, _ => none

/-- One line of assembly to its command words (R81, R82). -/
def assembleLine (line : List Char) : Option (List Word) :=
  let text := trim line
  let mnemonic := text.takeWhile (· != ' ')
  ((parseOperands (text.drop mnemonic.length)).bind (expandLine (mnemonic.map lower))).bind fun is =>
    is.mapM encodeCommand

end Sys2Proof.Machine
end

