-- ==== Sys2Proof/Safety.lean ====
section
/-!
DEFINITION. The invariants of the machine, in the terms its claims use: what holds at reset and after every step, and what
the block's surroundings keep to (R67).
-/
namespace Sys2Proof.Machine

/-- The answer the transport gives to the transaction that comes k transactions after the next one (R52): queued on BUS_RSP,
or free. -/
def State.answerAt (s : State) (k : Nat) : Config.BusResult :=
  match s.busRsp[k]? with
  | some r => r
  | none => Config.busResult (s.draws + (k - s.busRsp.length))

/-- The next n transactions have had their answers. -/
def State.takeAnswers (n : Nat) (s : State) : State :=
  { s with busRsp := s.busRsp.drop n, draws := s.draws + (n - s.busRsp.length) }

/-- The answer the transport gives to the next bus initialisation (R151): queued on INIT_RSP, or free. -/
def State.initAnswer (s : State) : Config.BusResult :=
  match s.initRsp[0]? with
  | some r => r
  | none => Config.initResult s.draws

/-- The next bus initialisation has had its answer. -/
def State.takeInit (s : State) : State :=
  { s with initRsp := s.initRsp.drop 1, draws := s.draws + (1 - s.initRsp.length) }

/-- The display RAM lists cells only at the even offsets 0 to 30 (R54, R58), in the canonical form. -/
abbrev State.DramOk (s : State) : Prop :=
  Memory.wf s.dram ∧ ∀ x ∈ s.dram, x.1 % 2 = 0 ∧ x.1 ≤ 30

/-- STATUS holds a code that is ever written (R180), its reserved bits are 0, and FAIL_IDX is 0 unless a bus write failed
(R25). -/
abbrev State.StatusOk (s : State) : Prop :=
  s.statusReserved = 0 ∧ s.code.toNat ≤ 6 ∧ (s.code ≠ Code.busWriteError.bits → s.failIdx = 0)

/-- The sequencer's registers: it leaves UNINIT only in SEQUENCING, BARK is 0..8 in BAR and 0 in every other phase (R23), RVAL
is below the modulus (R160), and the Render State is untouched before RENDERING (R24, R36). -/
abbrev State.SequencerOk (s : State) : Prop :=
  (s.mode ≠ .sequencing → s.phase = .uninit)
  ∧ (s.phase = .bar → s.bark.toNat ≤ 8) ∧ (s.phase ≠ .bar → s.bark = 0)
  ∧ s.rval.toNat < countModulus ∧ (s.phase ≠ .rendering → s.rval = 0 ∧ s.rbatt = false)

/-- Once the sequencer has sent a frame, no frame waits in FB (R28, R128). -/
abbrev State.FrameSpent (s : State) : Prop :=
  s.phase ≠ .uninit → s.phase ≠ .reset → s.fbValid = false

/-- The payload is one the block emits (R79). -/
def isBlockPayload (payload : List Byte) : Bool := (decodePayload payload).isOk

/-- Every transaction in the trace carries a payload the block emits (R79), and every pause request names a delay (R153). -/
abbrev State.TraceOk (s : State) : Prop :=
  ∀ e ∈ s.trace, match e with
    | .txn p _ => isBlockPayload p = true
    | .busInit _ => True
    | .pause k => k ≠ .none

/-- What stands on BUS_REQ is the block's own request (R50, R67). -/
abbrev State.PortOk (s : State) : Prop :=
  ∀ q ∈ s.busReq, q.device = devAddr ∧ isBlockPayload q.payload = true

/-- The machine's invariant. -/
structure State.Inv (s : State) : Prop where
  dramOk : s.DramOk
  statusOk : s.StatusOk
  sequencerOk : s.SequencerOk
  frameSpent : s.FrameSpent
  traceOk : s.TraceOk
  portOk : s.PortOk

end Sys2Proof.Machine
end

