-- ==== Sys2Proof/Certificates/Slice0/Obligations.lean ====
section
/-!
DEFINITION. The statements for the provers, each from the rules of spec/ it names, and the few words they share. A bus answer is
free (R52): a statement that needs a pattern of answers says so through `State.answerAt`, which covers the answers queued on
BUS_RSP and the free ones alike.
-/
namespace Sys2Proof.Claims

open Sys2Proof.Machine

/-- OP of a command word, as a number (R70). -/
def opOf (w : Word) : Nat := w.toNat / 4096
/-- A of a command word, as a number (R70). -/
def aOf (w : Word) : Nat := w.toNat / 256 % 16
/-- IMM8 of a command word, as a number (R70). -/
def immOf (w : Word) : Nat := w.toNat % 256

/-- OP is 0x0 or 0xB to 0xF (R73). -/
def ReservedOp (w : Word) : Prop := opOf w = 0 ∨ 0xB ≤ opOf w

/-- A bit the opcode map says must be 0 is set (R74). -/
def ZeroBitSet (w : Word) : Prop :=
  ((opOf w = 1 ∨ opOf w = 2) ∧ aOf w ≠ 0)
  ∨ ((opOf w = 3 ∨ opOf w = 4 ∨ opOf w = 7 ∨ opOf w = 8 ∨ opOf w = 9 ∨ opOf w = 0xA) ∧ (aOf w ≠ 0 ∨ immOf w ≠ 0))
  ∨ (opOf w = 5 ∧ immOf w ≠ 0)
  ∨ (opOf w = 6 ∧ 2 ≤ aOf w)

/-- BBAR with an index of 9..15 (R75). -/
def BarIndexTooBig (w : Word) : Prop := opOf w = 5 ∧ 8 < aOf w

/-- The word, taken from CMD_IN, writes STATUS with ILLEGAL_COMMAND and changes nothing else (R73, R78). -/
def ReportsIllegal (w : Word) : Prop :=
  ∀ (s : State) (rest : List PortEvent), s.busReq = none → s.host = .command w :: rest →
    step s = .next { s with host := rest, status := 0x0003 }

/-- The word, taken from CMD_IN, runs this instruction. -/
def WordRuns (w : Word) (i : Instr) : Prop :=
  ∀ (s : State) (rest : List PortEvent), s.busReq = none → s.host = .command w :: rest →
    step s = exec i { s with host := rest }

/-- In SEQUENCING the command reports BUSY, in FAILED it reports BUS_INIT_ERROR, and neither changes anything else (R76, R78). -/
def NeedsDirect (i : Instr) : Prop :=
  ∀ s : State,
    (s.mode = .sequencing → exec i s = .next { s with status := 0x0004 })
    ∧ (s.mode = .failed → exec i s = .next { s with status := 0x0002 })

/-- The next n transactions are all answered Ok. -/
def AllOk (s : State) (n : Nat) : Prop := ∀ k < n, s.answerAt k = .ok

/-- The transactions before number c are answered Ok, and number c is answered Err. -/
def FirstErr (s : State) (c : Nat) : Prop := AllOk s c ∧ s.answerAt c = .err

/-- The transaction of one cell of a frame (R79, R128). -/
def cellTxn (F : Frame) (r : Config.BusResult) (c : CellIdx) : Event := .txn [0xE0, BitVec.ofNat 8 (2 * c.val), F[c]] r

/-- The transactions of the first n cells of a frame, in address order, all Ok (R120, R128). -/
def firstCells (F : Frame) (n : Nat) : List Event := ((List.finRange 16).take n).map (cellTxn F .ok)

/-- Every cell holds the frame's byte, and every other offset reads as before (R66). -/
def FrameLanded (F : Frame) (m m' : Memory) : Prop :=
  (∀ c : CellIdx, m'.read (2 * c.val) = some F[c]) ∧ ∀ a, (∀ c : CellIdx, a ≠ 2 * c.val) → m'.read a = m.read a

/-- The cells before c hold the frame's bytes, cell c is Unknown, and every other offset reads as before (R128). -/
def FrameCut (F : Frame) (c : CellIdx) (m m' : Memory) : Prop :=
  (∀ j : CellIdx, j < c → m'.read (2 * j.val) = some F[j]) ∧ m'.read (2 * c.val) = none
    ∧ ∀ a, (∀ j : CellIdx, j ≤ c → a ≠ 2 * j.val) → m'.read a = m.read a

/-- STATUS with these field values, bits 15:10 zero (R25). -/
def statusOf (code failIdx pause : Nat) : BitVec 16 := BitVec.ofNat 16 (code + 16 * failIdx + 256 * pause)

/-- `t` is the state after a command from `s` has sent frame F: `u` is `s` with the command's own register writes, `pauses` and
`pause` are the pause events it emits after its last transaction and STATUS.PAUSE (R128, R152, R153, R161). One clause for 16 Ok
answers, one for each first failing transaction. -/
def SendsFrame (F : Frame) (pauses : List Event) (pause : Nat) (s u t : State) : Prop :=
  (AllOk s 16 →
    t = { u.takeAnswers 16 with
      busReq := none, fb := F, fbValid := false, dram := t.dram
      trace := s.trace ++ firstCells F 16 ++ pauses, status := statusOf 0 0 pause }
    ∧ FrameLanded F s.dram t.dram)
  ∧ ∀ c : CellIdx, FirstErr s c.val →
    t = { u.takeAnswers (c.val + 1) with
      busReq := none, fb := F, fbValid := false, dram := t.dram
      trace := s.trace ++ firstCells F c.val ++ [cellTxn F .err c] ++ pauses, status := statusOf 1 c.val pause }
    ∧ FrameCut F c s.dram t.dram

/-- STATUS after the reset pair: the first failure is reported (R129, R131). -/
def resetStatus : Config.BusResult → Config.BusResult → BitVec 16
  | .ok, .ok => 0x0000
  | .ok, .err => 0x0011
  | .err, _ => 0x0001

/-- n STEP commands in a row. -/
def stepTimes : Nat → State → Host.Outcome State Fault Refusal
  | 0, s => .next s
  | n + 1, s =>
    match exec .step s with
    | .next t => stepTimes n t
    | .fault f => .fault f
    | .refused r => .refused r

/-- The pause requests of a list of events, in order. -/
def pausesOf (es : List Event) : List PauseKind :=
  es.filterMap fun e => match e with
    | .pause k => some k
    | .txn _ _ => none
    | .busInit _ => none

/-- The transactions of a list of events, in order. -/
def txnsOf (es : List Event) : List (List Byte × Config.BusResult) :=
  es.filterMap fun e => match e with
    | .pause _ => none
    | .txn p r => some (p, r)
    | .busInit _ => none

/-- The result of running two instructions one after the other. -/
def execBoth (i j : Instr) (s : State) : Host.Outcome State Fault Refusal :=
  match exec i s with
  | .next t => exec j t
  | .fault f => .fault f
  | .refused r => .refused r

/-- The block's registers have the values R36 gives them; PAT, HUND, TENS, UNITS and FB are unspecified there. -/
def BlockAtReset (t : State) : Prop :=
  t.mode = .direct ∧ t.phase = .uninit ∧ t.bark = 0 ∧ t.rval = 0x00 ∧ t.rbatt = false ∧ t.status = 0x0000
    ∧ t.patValid = false ∧ t.decValid = false ∧ t.fbValid = false

/-- The word a read of register rn returned, when the machine answered state t. -/
def ReadsAs (s : State) (rn : BitVec 5) (word : BitVec 32 → Prop) : Prop :=
  ∀ rest, s.busReq = none → s.host = .read rn :: rest →
    ∃ t, step s = .next t ∧ word t.rdData ∧ t = { s with host := rest, rdData := t.rdData, draws := t.draws }

end Sys2Proof.Claims

open Sys2Proof Sys2Proof.Machine Sys2Proof.Claims

/-! ## Encoding -/

/-- Command words and payloads written out from the maps of R72 and R79, one of each row, decode to their instructions. -/
def Obligations.WrittenWordsDecode : Prop :=
  decodeTableWord 16 0x1007 = some (.enc 7) ∧ decodeTableWord 16 0x202A = some (.dec 42)
    ∧ decodeTableWord 16 0x3000 = some .bfill ∧ decodeTableWord 16 0x4000 = some .bclr
    ∧ decodeTableWord 16 0x5800 = some (.bbar 8) ∧ decodeTableWord 16 0x612A = some (.bnum 42 true)
    ∧ decodeTableWord 16 0x7000 = some .wrf ∧ decodeTableWord 16 0x8000 = some .crst
    ∧ decodeTableWord 16 0x9000 = some .start ∧ decodeTableWord 16 0xA000 = some .step
    ∧ decodeTableWord 16 0xE048 = some .rst1 ∧ decodeTableWord 16 0xE070 = some .rst2
    ∧ decodeTableWord 24 0xE01EA5 = some (.cellwr 15 0xA5)
    ∧ decodeTableWord 16 0x5900 = none ∧ decodeTableWord 16 0x0000 = none ∧ decodeTableWord 24 0xE001A5 = none

/-- Encoding a well-formed instruction and decoding the result gives it back, with every operand at every value. -/
def Obligations.DecodeAfterEncode : Prop :=
  ∀ i : Instr, i.wf = true → decodeTableWord (encode i).1 (encode i).2 = some i

/-- Every command word has at most one meaning: a word that decodes is the encoding of the command it decodes to, which is well
formed and no bus payload. -/
def Obligations.EncodeAfterDecode : Prop :=
  ∀ (w : Word) (i : Instr), decodeCommand w = .ok i → i.wf = true ∧ i.isPayload = false ∧ encodeCommand i = some w

/-- R73, R74, R75: the words that are illegal, and what one of them does; every other word is a legal command, so that there is
no hint and no custom space. -/
def Obligations.IllegalWordsWriteStatusOnly : Prop :=
  ∀ w : Word,
    (ReservedOp w ∨ ZeroBitSet w ∨ BarIndexTooBig w → ReportsIllegal w)
    ∧ (¬ (ReservedOp w ∨ ZeroBitSet w ∨ BarIndexTooBig w) → ∃ i, decodeCommand w = .ok i ∧ WordRuns w i)

/-- R77: the checks of a command run in the rule's order: reserved OP, "must be 0" bits, BBAR's range (and with any of these the
word reports ILLEGAL_COMMAND in every MODE), then MODE, and only then WRF's FB_VALID. -/
def Obligations.CommandChecksRunInOrder : Prop :=
  (∀ w : Word,
    (ReservedOp w → decodeCommand w = .error .reservedOpcode)
    ∧ (ZeroBitSet w → decodeCommand w = .error .mustBeZero)
    ∧ (BarIndexTooBig w → ¬ ZeroBitSet w → decodeCommand w = .error .barIndexOutOfRange)
    ∧ ∀ e, decodeCommand w = .error e → ReportsIllegal w)
  ∧ ∀ s : State, s.fbValid = false →
      (s.mode = .sequencing → exec .wrf s = .next { s with status := 0x0004 })
      ∧ (s.mode = .failed → exec .wrf s = .next { s with status := 0x0002 })
      ∧ (s.mode = .direct → exec .wrf s = .next { s with status := 0x0006 })

/-- R79, R80: the payloads the block emits are RST1, RST2 and the 16 times 256 cell writes, and each is read as the instruction
with those bytes; any other payload is none of this block's. -/
def Obligations.PayloadShapes : Prop :=
  decodePayload [0xE0, 0x48] = .ok .rst1 ∧ decodePayload [0xE0, 0x70] = .ok .rst2
    ∧ (∀ (c : CellIdx) (d : Byte), decodePayload [0xE0, BitVec.ofNat 8 (2 * c.val), d] = .ok (.cellwr c d))
    ∧ ∀ bs : List Byte,
        bs ≠ [0xE0, 0x48] → bs ≠ [0xE0, 0x70] → (∀ (c : CellIdx) (d : Byte), bs ≠ [0xE0, BitVec.ofNat 8 (2 * c.val), d]) →
          decodePayload bs = .error .notAPayload

/-! ## The step -/

/-- A legal command word at the head of what the host presents runs as its instruction, with the word taken. -/
def Obligations.StepRunsDecodedCommand : Prop :=
  ∀ (s : State) (w : Word) (rest : List PortEvent) (i : Instr),
    s.busReq = none → s.host = .command w :: rest → decodeCommand w = .ok i →
      step s = exec i { s with host := rest }

/-- Log entry 6 (DESIGN CHOICE): a payload is an instruction of the model that a step runs from BUS_REQ. What the rules say is
that a request goes to device 0x38 and has one result (R50), that it ends before anything else is issued or accepted (R35, R53),
and that RESET_N may come before its result (R201). So the payload on BUS_REQ runs before anything the host presents, unless
RESET_N is asserted. -/
def Obligations.StepRunsRequestedPayload : Prop :=
  ∀ (s : State) (q : BusRequest) (i : Instr),
    s.busReq = some q → q.device = 0x38 → decodePayload q.payload = .ok i → s.host.head? ≠ some .resetN →
      step s = exec i { s with busReq := none }

/-- A request this block never makes is refused by name: the model has no other writer (R67, R80). -/
def Obligations.ForeignRequestIsRefused : Prop :=
  ∀ (s : State) (q : BusRequest),
    s.busReq = some q → (q.device ≠ 0x38 ∨ decodePayload q.payload = .error .notAPayload) → s.host.head? ≠ some .resetN →
      step s = .refused .notThisBlocksRequest

/-- The block never starts work by itself: with no request and nothing presented, a step changes nothing (R186, R202). -/
def Obligations.IdleBlockWaits : Prop :=
  ∀ s : State, s.busReq = none → s.host = [] → step s = .next s

/-- Any word placed with `withFetchWord` is what the next step runs: the instruction its number decodes to, with no other
change than the free port and, for a payload, RESET_N not asserted. -/
def Obligations.PlacedWordRunsNext : Prop :=
  (∀ (s : State) (w : Nat) (i : Instr), w < 2 ^ 16 → decodeTableWord 16 w = some i → i.isPayload = false →
    step (s.withFetchWord 16 w) = exec i { s with busReq := none })
  ∧ ∀ (s : State) (nbits w : Nat) (i : Instr),
      (nbits = 16 ∨ nbits = 24) → w < 2 ^ nbits → decodeTableWord nbits w = some i → i.isPayload = true →
        step (s.withFetchWord nbits w)
          = exec i { s with busReq := none, host := s.host.dropWhile (fun e => decide (e = .resetN)) }

/-! ## Encoder and decomposer -/

/-- R100: the ten patterns, and BLANK for every other input. -/
def Obligations.DigitTable : Prop :=
  ∀ d : Byte, encodeDigit d =
    ([0xFA, 0x60, 0xBC, 0xF4, 0x66, 0xD6, 0xDE, 0x70, 0xFE, 0xF6] : List Byte).getD d.toNat 0x00

/-- R102, R103: the patterns are all different, none is 0x00, bit 0 is 0 in each; `decode_pattern` is their inverse, reads 0x00
as blank, and is undefined everywhere else. -/
def Obligations.DigitPatternsInvert : Prop :=
  (∀ d e : Byte, d.toNat ≤ 9 → e.toNat ≤ 9 → encodeDigit d = encodeDigit e → d = e)
    ∧ (∀ d : Byte, d.toNat ≤ 9 →
        encodeDigit d ≠ 0x00 ∧ (encodeDigit d).getLsbD 0 = false ∧ decodePattern (encodeDigit d) = .digit d.toNat)
    ∧ decodePattern 0x00 = .blank
    ∧ ∀ p : Byte, p ≠ 0x00 → (∀ d : Byte, d.toNat ≤ 9 → p ≠ encodeDigit d) → decodePattern p = .undefined

/-- R101: ENC stores the pattern of its digit in every MODE and changes nothing else; running it again changes nothing; its
word is 0x1000 | d, and a word with OP = 1 and a nonzero A is illegal. -/
def Obligations.EncStoresPattern : Prop :=
  (∀ (d : Byte) (s : State), exec (.enc d) s = .next { s with pat := encodeDigit d, patValid := true, status := 0x0000 })
    ∧ (∀ (d : Byte) (s t : State), exec (.enc d) s = .next t → exec (.enc d) t = .next t)
    ∧ (∀ d : Byte, WordRuns (0x1000 ||| d.setWidth 16) (.enc d))
    ∧ ∀ w : Word, opOf w = 1 → aOf w ≠ 0 → ReportsIllegal w

/-- R110: the triple of a value, by the rule's three ranges. -/
def Obligations.DecomposeByRange : Prop :=
  ∀ v : Byte,
    let digit := fun n : Nat => encodeDigit (BitVec.ofNat 8 n)
    (v.toNat < 10 → decompose v = ⟨false, 0x00, digit (v.toNat % 10)⟩)
    ∧ (10 ≤ v.toNat → v.toNat < 100 → decompose v = ⟨false, digit (v.toNat / 10 % 10), digit (v.toNat % 10)⟩)
    ∧ (100 ≤ v.toNat → decompose v = ⟨true, digit (v.toNat / 10 % 10), digit (v.toNat % 10)⟩)

/-- R111: DEC stores the triple in every MODE and changes nothing else; its word is 0x2000 | v, and a word with OP = 2 and a
nonzero A is illegal. The corner cases are the rule's. -/
def Obligations.DecStoresTriple : Prop :=
  (∀ (v : Byte) (s : State), exec (.dec v) s = .next { s with
      hund := (decompose v).hund, tens := (decompose v).tens, units := (decompose v).units, decValid := true
      status := 0x0000 })
    ∧ (∀ v : Byte, WordRuns (0x2000 ||| v.setWidth 16) (.dec v))
    ∧ (∀ w : Word, opOf w = 2 → aOf w ≠ 0 → ReportsIllegal w)
    ∧ decompose 0 = ⟨false, 0x00, 0xFA⟩ ∧ decompose 9 = ⟨false, 0x00, 0xF6⟩ ∧ decompose 10 = ⟨false, 0x60, 0xFA⟩
    ∧ decompose 99 = ⟨false, 0xF6, 0xF6⟩ ∧ decompose 100 = ⟨true, 0xFA, 0xFA⟩ ∧ decompose 200 = decompose 100
    ∧ decompose 255 = ⟨true, 0xD6, 0xD6⟩
    ∧ ∀ v : Byte, 100 ≤ v.toNat → v.toNat ≤ 109 → (decompose v).tens = 0xFA

/-- R112, R113: the tens pattern is blank exactly below 10, the units pattern is always a digit, the flag is set from 100 on, and
there the patterns are the digits of v % 100, so that v and v + 100 show the same. -/
def Obligations.ZeroSuppressionAndHundredsFlag : Prop :=
  ∀ v : Byte,
    ((decompose v).tens = 0x00 ↔ v.toNat < 10)
    ∧ (decompose v).units = encodeDigit (BitVec.ofNat 8 (v.toNat % 10)) ∧ (decompose v).units ≠ 0x00
    ∧ ((decompose v).hund = true ↔ 100 ≤ v.toNat)
    ∧ (100 ≤ v.toNat →
        (decompose v).tens = encodeDigit (BitVec.ofNat 8 (v.toNat % 100 / 10))
        ∧ (decompose v).units = encodeDigit (BitVec.ofNat 8 (v.toNat % 100 % 10)))
    ∧ (100 ≤ v.toNat → v.toNat ≤ 155 → decompose (v + 100) = decompose v)

/-- R114: reading the triple back gives v below 200, and v - 100 from 200 on. -/
def Obligations.TripleReadsBack : Prop :=
  ∀ v : Byte,
    (v.toNat < 200 → (decompose v).value? = some v.toNat) ∧ (200 ≤ v.toNat → (decompose v).value? = some (v.toNat - 100))

/-! ## Frame building -/

/-- R121, R122: in DIRECT, BFILL and BCLR load sixteen 0xFF or 0x00 and change nothing else; the other modes refuse them; their
words are 0x3000 and 0x4000, and any other word with their OP is illegal. -/
def Obligations.FillAndClearBuild : Prop :=
  (∀ s : State, s.mode = .direct → exec .bfill s = .next { s with
      fb := Vector.replicate 16 0xFF, fbValid := true, status := 0x0000 })
    ∧ (∀ s : State, s.mode = .direct → exec .bclr s = .next { s with
      fb := Vector.replicate 16 0x00, fbValid := true, status := 0x0000 })
    ∧ NeedsDirect .bfill ∧ NeedsDirect .bclr
    ∧ WordRuns 0x3000 .bfill ∧ WordRuns 0x4000 .bclr
    ∧ (∀ w : Word, opOf w = 3 → w ≠ 0x3000 → ReportsIllegal w) ∧ ∀ w : Word, opOf w = 4 → w ≠ 0x4000 → ReportsIllegal w

/-- R123, R124: in DIRECT, BBAR k loads row k of the bar table and changes nothing else: the literal rows 0 and 8, and the
parameter's rows 1 to 7; the other modes refuse it; its word is 0x5000 | (k << 8); k above 8 or a nonzero IMM8 is illegal. -/
def Obligations.BbarBuildsRow : Prop :=
  (∀ s : State, s.mode = .direct →
      exec (.bbar 0) s = .next { s with
        fb := #v[0x0E, 0, 0, 0, 0, 0, 0, 0, 0, 0, 0, 0, 0, 0, 0, 0], fbValid := true, status := 0x0000 }
      ∧ exec (.bbar 8) s = .next { s with
        fb := #v[0x0E, 0xFF, 0xFF, 0xFF, 0, 0, 0, 0, 0, 0, 0, 0, 0, 0, 0, 0], fbValid := true, status := 0x0000 }
      ∧ ∀ k : Fin 7, exec (.bbar (BitVec.ofNat 4 (k.val + 1))) s = .next { s with
        fb := s.cfg.barRows[k], fbValid := true, status := 0x0000 })
    ∧ (∀ k : BitVec 4, k.toNat ≤ 8 → NeedsDirect (.bbar k))
    ∧ (∀ k : BitVec 4, k.toNat ≤ 8 → WordRuns (0x5000 ||| (k.setWidth 16 <<< 8)) (.bbar k))
    ∧ ∀ w : Word, opOf w = 5 → (8 < aOf w ∨ immOf w ≠ 0) → ReportsIllegal w

/-- R125, R127: in DIRECT, BNUM v, b loads the frame whose cells combine base byte, digit patterns, hundreds mask and battery
mask by OR, and changes nothing else; the other modes refuse it; its word is 0x6000 | (b << 8) | v; A above 1 is illegal. -/
def Obligations.BnumBuildsFrame : Prop :=
  (∀ (v : Byte) (b : Bool) (s : State), s.mode = .direct →
    ∃ F : Frame, exec (.bnum v b) s = .next { s with fb := F, fbValid := true, status := 0x0000 }
      ∧ ∀ c : CellIdx, F[c] =
          (s.cfg.layout.numBase[c]
            ||| (if c = s.cfg.layout.unitsCell then (decompose v).units else 0x00)
            ||| (if c = s.cfg.layout.tensCell then (decompose v).tens else 0x00)
            ||| (if c = s.cfg.layout.hundCell ∧ (decompose v).hund = true then s.cfg.layout.hundMask else 0x00)
            ||| (if c = s.cfg.layout.battCell ∧ b = true then s.cfg.layout.battMask else 0x00)))
    ∧ (∀ (v : Byte) (b : Bool), NeedsDirect (.bnum v b))
    ∧ (∀ (v : Byte) (b : Bool), WordRuns (0x6000 ||| ((BitVec.ofBool b).setWidth 16 <<< 8) ||| v.setWidth 16) (.bnum v b))
    ∧ ∀ w : Word, opOf w = 6 → 2 ≤ aOf w → ReportsIllegal w

/-- R126: a configuration is accepted exactly when the five conditions hold, and is refused by name otherwise. -/
def Obligations.ConfigurationIsChecked : Prop :=
  ∀ (l : Config.Layout) (rows : Vector Frame 7) (b : Bool) (t f r n : Nat) (s : State),
    let extra := fun c : CellIdx =>
      l.numBase[c] ||| (if c = l.hundCell then l.hundMask else 0x00) ||| (if c = l.battCell then l.battMask else 0x00)
    let wellFormed : Prop :=
      l.unitsCell ≠ l.tensCell
      ∧ (l.hundMask ≠ 0x00 ∧ l.battMask ≠ 0x00)
      ∧ (extra l.unitsCell &&& 0xFE = 0x00 ∧ extra l.tensCell &&& 0xFE = 0x00)
      ∧ (l.numBase[l.hundCell] &&& l.hundMask = 0x00 ∧ l.numBase[l.battCell] &&& l.battMask = 0x00)
      ∧ (l.hundCell = l.battCell → l.hundMask &&& l.battMask = 0x00)
    (wellFormed → ∃ p : Config.Params, configure l rows b t f r n s = .next { s with cfg := p }
      ∧ p.layout = l ∧ p.barRows = rows ∧ p.battInit = b ∧ p.busTimeout = t ∧ p.tFill = f ∧ p.tBar = r ∧ p.tRender = n)
    ∧ (¬ wellFormed → configure l rows b t f r n s = .refused .layoutNotWellFormed)

/-- R126, R114: under a well-formed layout, a numeric frame gives back its digit patterns, its hundreds flag and its battery bit,
and with them the value, below 200. -/
def Obligations.NumericFrameReadsBack : Prop :=
  ∀ (p : Config.Params) (v : Byte) (b : Bool),
    let F := numFrame p.layout v b
    F[p.layout.unitsCell] &&& 0xFE = (decompose v).units
    ∧ F[p.layout.tensCell] &&& 0xFE = (decompose v).tens
    ∧ (F[p.layout.hundCell] &&& p.layout.hundMask ≠ 0x00 ↔ (decompose v).hund = true)
    ∧ (F[p.layout.battCell] &&& p.layout.battMask ≠ 0x00 ↔ b = true)
    ∧ frameBattery p.layout F = b ∧ (v.toNat < 200 → (frameDigits p.layout F).value? = some v.toNat)

/-! ## Bus transactions -/

/-- R55: a cell write makes its cell Known with Ok and Unknown with Err, and changes no other cell; the transaction is recorded
and nothing else changes. -/
def Obligations.CellWriteTransaction : Prop :=
  ∀ (c : CellIdx) (d : Byte) (s : State), ∃ t, exec (.cellwr c d) s = .next t
    ∧ t = { s.takeAnswers 1 with
        busReq := none, dram := t.dram
        trace := s.trace ++ [.txn [0xE0, BitVec.ofNat 8 (2 * c.val), d] (s.answerAt 0)] }
    ∧ (s.answerAt 0 = .ok → t.dram.read (2 * c.val) = some d)
    ∧ (s.answerAt 0 = .err → t.dram.read (2 * c.val) = none)
    ∧ ∀ a, a ≠ 2 * c.val → t.dram.read a = s.dram.read a

/-- R57: a reset write makes every cell Unknown whether its result is Ok or Err; the transaction is recorded and nothing else
changes. -/
def Obligations.ResetWriteTransaction : Prop :=
  ∀ s : State,
    exec .rst1 s = .next { s.takeAnswers 1 with
      busReq := none, dram := [], trace := s.trace ++ [.txn [0xE0, 0x48] (s.answerAt 0)] }
    ∧ exec .rst2 s = .next { s.takeAnswers 1 with
      busReq := none, dram := [], trace := s.trace ++ [.txn [0xE0, 0x70] (s.answerAt 0)] }
    ∧ ∀ a, Memory.read [] a = none

/-- R61: writing the same byte to the same cell twice with Ok leaves the display RAM of writing it once. -/
def Obligations.CellWriteTwiceIsOnce : Prop :=
  ∀ (c : CellIdx) (d : Byte) (s t u : State), s.answerAt 0 = .ok → s.answerAt 1 = .ok →
    exec (.cellwr c d) s = .next t → exec (.cellwr c d) t = .next u → u.dram = t.dram

/-- R128, R130: in DIRECT with a frame held, WRF sends it cell by cell up to the first error, in address order, and the frame is
spent; with none held it reports NO_FRAME; the other modes refuse it; only 0x7000 is its word. -/
def Obligations.WrfSendsHeldFrame : Prop :=
  (∀ s : State, s.mode = .direct → s.fbValid = true → ∃ t, exec .wrf s = .next t ∧ SendsFrame s.fb [] 0 s s t)
    ∧ (∀ s : State, s.mode = .direct → s.fbValid = false → exec .wrf s = .next { s with status := 0x0006 })
    ∧ NeedsDirect .wrf ∧ WordRuns 0x7000 .wrf ∧ ∀ w : Word, opOf w = 7 → w ≠ 0x7000 → ReportsIllegal w

/-- R34, R52, R53: whatever the instruction and the state, its transactions take the answers of the bus one each, in the order of
the trace, and none is skipped: number k has answer k, and the answers left are those after the last transaction. START sends no
transaction and leaves the queued answers. That the answers to come are a queue followed by free values is log entry 2. -/
def Obligations.TransactionsTakeAnswersInOrder : Prop :=
  ∀ (i : Instr) (s : State), ∃ (t : State) (es : List Event), exec i s = .next t ∧ t.trace = s.trace ++ es
    ∧ (∀ (k : Nat) (p : List Byte) (r : Config.BusResult), (txnsOf es)[k]? = some (p, r) → r = s.answerAt k)
    ∧ (i ≠ .start → ∀ k, t.answerAt k = s.answerAt ((txnsOf es).length + k))
    ∧ (i = .start → txnsOf es = [] ∧ t.busRsp = s.busRsp)

/-- R206: after a WRF that ran, a second one with no build between reports NO_FRAME and sends nothing. -/
def Obligations.SecondWrfReportsNoFrame : Prop :=
  ∀ s t : State, s.mode = .direct → exec .wrf s = .next t → exec .wrf t = .next { t with status := 0x0006 }

/-- R129, R131: in DIRECT, CRST issues both reset writes whatever the first one's result, every cell is Unknown, and the first
failure is reported; the frame buffer stays; the other modes refuse it; only 0x8000 is its word. -/
def Obligations.CrstSendsResetPair : Prop :=
  (∀ s : State, s.mode = .direct → exec .crst s = .next { s.takeAnswers 2 with
      busReq := none, dram := []
      trace := s.trace ++ [.txn [0xE0, 0x48] (s.answerAt 0), .txn [0xE0, 0x70] (s.answerAt 1)]
      status := resetStatus (s.answerAt 0) (s.answerAt 1) })
    ∧ NeedsDirect .crst ∧ WordRuns 0x8000 .crst ∧ ∀ w : Word, opOf w = 8 → w ≠ 0x8000 → ReportsIllegal w

/-- R132: the cell writes a command or step emits are those of one frame in address order from offset 0, each once; all before the
last are Ok, and fewer than 16 only where the last is Err. -/
def Obligations.CellWritesRunInOrder : Prop :=
  ∀ (i : Instr) (s t : State), i.isPayload = false → exec i s = .next t →
    ∃ es : List Event, t.trace = s.trace ++ es ∧
      let cells := (txnsOf es).filter fun x => x.1.length = 3
      (cells = []
        ∨ (∃ F : Frame, cells = txnsOf (firstCells F 16))
        ∨ ∃ (F : Frame) (c : CellIdx), cells = txnsOf (firstCells F c.val ++ [cellTxn F .err c]))

/-! ## Sequencer -/

/-- R151, R183: in DIRECT, START asks for the bus initialisation once; Ok moves MODE to SEQUENCING, Err to FAILED with
BUS_INIT_ERROR; no bus write is issued and nothing else changes; the other modes refuse it; only 0x9000 is its word. -/
def Obligations.StartInitialisesBus : Prop :=
  (∀ s : State, s.mode = .direct → s.initAnswer = .ok → exec .start s = .next { s.takeInit with
      mode := .sequencing, trace := s.trace ++ [.busInit .ok], status := 0x0000 })
    ∧ (∀ s : State, s.mode = .direct → s.initAnswer = .err → exec .start s = .next { s.takeInit with
      mode := .failed, trace := s.trace ++ [.busInit .err], status := 0x0002 })
    ∧ NeedsDirect .start ∧ WordRuns 0x9000 .start ∧ ∀ w : Word, opOf w = 9 → w ≠ 0x9000 → ReportsIllegal w

/-- R154: from UNINIT, STEP sends the reset pair; the frame buffer stays; no pause is asked for. -/
def Obligations.StepResetsController : Prop :=
  ∀ s : State, s.mode = .sequencing → s.phase = .uninit → exec .step s = .next { s.takeAnswers 2 with
    phase := .reset, busReq := none, dram := []
    trace := s.trace ++ [.txn [0xE0, 0x48] (s.answerAt 0), .txn [0xE0, 0x70] (s.answerAt 1)]
    status := resetStatus (s.answerAt 0) (s.answerAt 1) }

/-- R155: from RESET, STEP writes the all-on frame and asks for the FILL pause. -/
def Obligations.StepWritesFillTest : Prop :=
  ∀ s : State, s.mode = .sequencing → s.phase = .reset → ∃ t, exec .step s = .next t
    ∧ SendsFrame (Vector.replicate 16 0xFF) [.pause .fill] 1 s { s with phase := .fillTest } t

/-- R156: from FILLTEST, STEP writes bar row 0 and asks for the BAR pause. -/
def Obligations.StepWritesFirstBar : Prop :=
  ∀ s : State, s.mode = .sequencing → s.phase = .fillTest → ∃ t, exec .step s = .next t
    ∧ SendsFrame #v[0x0E, 0, 0, 0, 0, 0, 0, 0, 0, 0, 0, 0, 0, 0, 0, 0] [.pause .bar] 2 s { s with phase := .bar, bark := 0 } t

/-- R157: from BAR(k), k < 8, STEP writes bar row k + 1, moves to BAR(k + 1) and asks for the BAR pause. -/
def Obligations.StepWritesNextBar : Prop :=
  ∀ s : State, s.mode = .sequencing → s.phase = .bar →
    (∀ k : Fin 7, s.bark = BitVec.ofNat 4 k.val → ∃ t, exec .step s = .next t
      ∧ SendsFrame s.cfg.barRows[k] [.pause .bar] 2 s { s with bark := BitVec.ofNat 4 (k.val + 1) } t)
    ∧ (s.bark = 7 → ∃ t, exec .step s = .next t
      ∧ SendsFrame #v[0x0E, 0xFF, 0xFF, 0xFF, 0, 0, 0, 0, 0, 0, 0, 0, 0, 0, 0, 0] [.pause .bar] 2 s { s with bark := 8 } t)

/-- R158: from BAR(8), STEP writes the all-off frame, clears BARK and asks for no pause. -/
def Obligations.StepWritesClear : Prop :=
  ∀ s : State, s.mode = .sequencing → s.phase = .bar → s.bark = 8 → ∃ t, exec .step s = .next t
    ∧ SendsFrame (Vector.replicate 16 0x00) [] 0 s { s with phase := .cleared, bark := 0 } t

/-- R159: from CLEARED, STEP enters RENDERING with value 0 and the parameter's battery flag, with no transaction. -/
def Obligations.StepEntersRendering : Prop :=
  ∀ s : State, s.mode = .sequencing → s.phase = .cleared → exec .step s = .next { s with
    rval := 0, rbatt := s.cfg.battInit, phase := .rendering, status := 0x0000 }

/-- R160: in RENDERING, STEP writes the numeric frame of RVAL and of the flag before its toggle, counts modulo 200
(log entry 9), toggles the flag and asks for the RENDER pause. -/
def Obligations.StepRendersAndCounts : Prop :=
  ∀ s : State, s.mode = .sequencing → s.phase = .rendering → ∃ t, exec .step s = .next t
    ∧ SendsFrame (numFrame s.cfg.layout s.rval s.rbatt) [.pause .render] 3 s
        { s with rval := BitVec.ofNat 8 ((s.rval.toNat + 1) % 200), rbatt := !s.rbatt } t

/-- R76, R78: where the mode table gives a code, the command writes that code to STATUS and nothing else. -/
def Obligations.ModeTableRefuses : Prop :=
  (∀ i : Instr, i.wf = true → i.isPayload = false → (∀ d, i ≠ .enc d) → (∀ v, i ≠ .dec v) → i ≠ .step → NeedsDirect i)
    ∧ ∀ s : State,
      (s.mode = .direct → exec .step s = .next { s with status := 0x0005 })
      ∧ (s.mode = .failed → exec .step s = .next { s with status := 0x0002 })

/-- R161: the results of a STEP's transactions decide nothing but the transactions sent, the display RAM and STATUS: whatever the
answers, the phase, the counters and the pause asked for are the same. -/
def Obligations.FailedWriteDoesNotStopSequencer : Prop :=
  ∀ (s t t' : State) (answers : List Config.BusResult) (n : Nat),
    exec .step s = .next t → exec .step { s with busRsp := answers, draws := n } = .next t' →
      t'.mode = t.mode ∧ t'.phase = t.phase ∧ t'.bark = t.bark ∧ t'.rval = t.rval ∧ t'.rbatt = t.rbatt
        ∧ t'.fb = t.fb ∧ t'.fbValid = t.fbValid ∧ t'.pause = t.pause ∧ pausesOf t'.trace = pausesOf t.trace

/-- R162: from UNINIT in SEQUENCING, 13 STEPs reach RENDERING at value 0 whatever the bus answers, with one FILL and nine BAR
pauses; where every answer is Ok, they send 178 transactions. -/
def Obligations.StartupReachesRendering : Prop :=
  ∀ s : State, s.mode = .sequencing → s.phase = .uninit → ∃ (t : State) (es : List Event),
    stepTimes 13 s = .next t ∧ t.mode = .sequencing ∧ t.phase = .rendering ∧ t.rval = 0 ∧ t.rbatt = s.cfg.battInit
      ∧ t.trace = s.trace ++ es ∧ pausesOf es = .fill :: List.replicate 9 .bar
      ∧ (AllOk s 178 → (txnsOf es).length = 178)

/-- R163: RENDERING is never left by STEPs, and the Render State comes back after 200 of them. The modulus 200 is log entry 9
(DEDUCED). -/
def Obligations.RenderStateRepeats : Prop :=
  ∀ s : State, s.mode = .sequencing → s.phase = .rendering →
    (∀ n, ∃ t, stepTimes n s = .next t ∧ t.phase = .rendering ∧ t.mode = .sequencing)
    ∧ (s.rval.toNat < 200 → ∃ t, stepTimes 200 s = .next t ∧ t.rval = s.rval ∧ t.rbatt = s.rbatt)

/-- R203: building a frame and writing it by hand in DIRECT sends what the sequencer's STEP sends, and leaves the display RAM it
leaves, for each transition. R203 says so for results that are all Ok; for every other pattern of answers it follows from R128 and
R129, which WRF, CRST and the transitions share. -/
def Obligations.HandAndSequencerSendTheSame : Prop :=
  ∀ (s : State) (t u : State), s.mode = .direct →
    let same (built : Host.Outcome State Fault Refusal) (seq : State) : Prop :=
      built = .next t → exec .step { seq with mode := .sequencing } = .next u →
        t.dram = u.dram ∧ txnsOf t.trace = txnsOf u.trace
    same (exec .crst s) { s with phase := .uninit }
    ∧ same (execBoth .bfill .wrf s) { s with phase := .reset }
    ∧ same (execBoth (.bbar 0) .wrf s) { s with phase := .fillTest }
    ∧ (∀ k : BitVec 4, k.toNat < 8 → same (execBoth (.bbar (k + 1)) .wrf s) { s with phase := .bar, bark := k })
    ∧ same (execBoth .bclr .wrf s) { s with phase := .bar, bark := 8 }
    ∧ ∀ (v : Byte) (b : Bool), same (execBoth (.bnum v b) .wrf s) { s with phase := .rendering, rval := v, rbatt := b }

/-! ## The whole machine -/

/-- R25: every command writes all of STATUS, so that nothing of its earlier value can be seen after it; and no other field
depends on it. -/
def Obligations.CommandsOverwriteStatus : Prop :=
  ∀ (i : Instr) (s : State) (x : BitVec 16), i.isPayload = false →
    ∃ t, exec i s = .next t ∧ exec i { s with status := x } = .next t ∧ t.statusReserved = 0

/-- R22: only START moves MODE, and only out of DIRECT; no step but a reset returns it to DIRECT. -/
def Obligations.OnlyStartAndResetMoveMode : Prop :=
  (∀ (i : Instr) (s t : State), exec i s = .next t → t.mode ≠ s.mode → i = .start ∧ s.mode = .direct ∧ t.mode ≠ .direct)
    ∧ ∀ s t : State, step s = .next t → s.mode ≠ .direct → t.mode = .direct →
        s.host.head? = some .resetN ∨ ∃ w n f, s.host.head? = some (.commandThenReset w n f)

/-- R23, R24, R26 to R28, R30: each register has its own writers. Nothing but STEP writes PHASE, BARK, RVAL and RBATT; nothing but
ENC writes PAT; nothing but DEC writes DECR; FB is written only by the build commands and STEP; no instruction writes the
parameters, the read port or what the host presents. -/
def Obligations.RegistersHaveTheirWriters : Prop :=
  ∀ (i : Instr) (s t : State), exec i s = .next t →
    (i ≠ .step → t.phase = s.phase ∧ t.bark = s.bark ∧ t.rval = s.rval ∧ t.rbatt = s.rbatt)
    ∧ ((∀ d, i ≠ .enc d) → t.pat = s.pat ∧ t.patValid = s.patValid)
    ∧ ((∀ v, i ≠ .dec v) → t.hund = s.hund ∧ t.tens = s.tens ∧ t.units = s.units ∧ t.decValid = s.decValid)
    ∧ (i ≠ .bfill → i ≠ .bclr → (∀ k, i ≠ .bbar k) → (∀ v b, i ≠ .bnum v b) → i ≠ .step → t.fb = s.fb)
    ∧ (i.isPayload = true → t.status = s.status ∧ t.fbValid = s.fbValid)
    ∧ t.cfg = s.cfg ∧ t.rdData = s.rdData ∧ t.host = s.host

/-- R63: the display RAM after a step is the fold of the step's transactions, in trace order, over the display RAM before it; only
the controller's power-on changes it without one (R56). -/
def Obligations.DisplayRamIsFoldOfTrace : Prop :=
  ∀ s t : State, step s = .next t → ∃ es : List Event, t.trace = s.trace ++ es
    ∧ (s.busReq = none → s.host.head? = some .controllerPowerOn → es = [] ∧ t.dram = [])
    ∧ (s.busReq ≠ none ∨ s.host.head? ≠ some .controllerPowerOn → t.dram = es.foldl Event.deliver s.dram)

/-- The display RAM keeps its canonical form, with cells only at the even offsets 0 to 30 (R54, R58), at every step. -/
def Obligations.StepKeepsDisplayRamForm : Prop :=
  ∀ s t : State, s.DramOk → step s = .next t → t.DramOk

/-- The machine's invariant holds after every step from a state that has it: legal STATUS, BARK and RVAL ranges, a sequencer that
left UNINIT only in SEQUENCING, spent frames, and a bus that carries only the block's payloads. -/
def Obligations.StepKeepsInvariant : Prop :=
  ∀ s t : State, s.Inv → step s = .next t → t.Inv

/-- The machine's invariant holds after reset. -/
def Obligations.ResetHasInvariant : Prop := State.reset.Inv

/-- While the bus carries only the block's requests, a step always has a next state: no command, read or reset ends a run. -/
def Obligations.StepAlwaysGoesOn : Prop :=
  ∀ s : State, s.PortOk → ∃ t, step s = .next t

/-! ## Reset and the read port -/

/-- R36, R200, R56: after a block reset every register has R36's value, the block is idle, and the display RAM and the constant
tables stay; after power-on no cell is Known. That the trace, the other parameters and what the host presents next stay too is
log entry 16 (DEDUCED). -/
def Obligations.ResetGivesResetValues : Prop :=
  (∀ (s : State) (rest : List PortEvent), s.busReq = none → s.host = .resetN :: rest → ∃ t, step s = .next t
      ∧ BlockAtReset t ∧ t.busReq = none ∧ t.dram = s.dram ∧ t.cfg = s.cfg ∧ t.trace = s.trace ∧ t.host = rest)
    ∧ BlockAtReset State.reset ∧ State.reset.busReq = none ∧ ∀ a, State.reset.dram.read a = none

/-- R201: a reset during a command issues nothing more. Of the events the whole command would have emitted, the first n stay, the
transaction in flight counts as Err, the display RAM is their fold, and the block is as after a reset. -/
def Obligations.ResetDuringCommand : Prop :=
  (∀ (s u : State) (w : Word) (n : Nat) (inFlight : Bool) (rest : List PortEvent) (i : Instr) (es : List Event),
      s.busReq = none → s.host = .commandThenReset w n inFlight :: rest → decodeCommand w = .ok i →
      exec i { s with host := rest } = .next u → u.trace = s.trace ++ es →
      (∀ r, inFlight = true → es[n]? ≠ some (.busInit r)) →
        ∃ t, step s = .next t ∧ BlockAtReset t ∧ t.busReq = none ∧ t.cfg = s.cfg ∧ t.host = rest
          ∧ (let cut : List Event :=
              match inFlight, es[n]? with
              | true, some (.txn p _) => [.txn p .err]
              | _, _ => []
            t.trace = s.trace ++ es.take n ++ cut
              ∧ t.dram = (es.take n ++ cut).foldl Event.deliver s.dram))
    ∧ ∀ (s : State) (q : BusRequest) (rest : List PortEvent), s.busReq = some q → s.host = .resetN :: rest →
        ∃ t, step s = .next t ∧ BlockAtReset t ∧ t.busReq = none ∧ t.host = rest
          ∧ t.trace = s.trace ++ [.txn q.payload .err] ∧ t.dram = deliver q.payload .err s.dram

/-- R31, R32: the word of every register number, with its valid bit exact and its data where that bit is 1; a read changes
nothing but the port's output (and the model's counter of draws). -/
def Obligations.ReadPortMap : Prop :=
  [Mode.direct, .sequencing, .failed].map Mode.bits = [0, 1, 2]
  ∧ [Phase.uninit, .reset, .fillTest, .bar, .cleared, .rendering].map Phase.bits = [0, 1, 2, 3, 4, 5]
  ∧ ∀ s : State,
    ReadsAs s 0 (fun x => x.toNat = s.status.toNat)
    ∧ ReadsAs s 1 (fun x => if s.patValid then x.toNat = 2 ^ 31 + s.pat.toNat else x.toNat < 2 ^ 8)
    ∧ ReadsAs s 2 (fun x => if s.decValid
        then x.toNat = 2 ^ 31 + 2 ^ 16 * s.hund.toNat + 2 ^ 8 * s.tens.toNat + s.units.toNat else x.toNat < 2 ^ 17)
    ∧ ReadsAs s 3 (fun x => x.toNat = s.phase.bits.toNat + 2 ^ 4 * s.bark.toNat + 2 ^ 8 * s.mode.bits.toNat)
    ∧ ReadsAs s 4 (fun x => x.toNat = s.rval.toNat + 2 ^ 8 * s.rbatt.toNat)
    ∧ ReadsAs s 5 (fun x => x.toNat = s.fbValid.toNat)
    ∧ (∀ rn : BitVec 5, 6 ≤ rn.toNat → rn.toNat ≤ 15 → ReadsAs s rn (fun x => x.toNat = 0))
    ∧ ∀ c : CellIdx, ReadsAs s (BitVec.ofNat 5 (16 + c.val)) (fun x =>
        if s.fbValid then x.toNat = 2 ^ 31 + s.fb[c].toNat else x.toNat < 2 ^ 8)

/-! ## The assembler -/

/-- R81, R82: an operand outside its range is refused, not truncated; the pseudo-instructions expand to their two words. -/
def Obligations.AssemblerRangesAndPseudoInstructions : Prop :=
  let assemble (mnemonic : List Char) (operands : List Nat) : Option (List Word) :=
    (expandLine mnemonic operands).bind fun is => is.mapM encodeCommand
  (∀ d : Nat, assemble ['e', 'n', 'c'] [d] = if d ≤ 255 then some [BitVec.ofNat 16 (0x1000 + d)] else none)
    ∧ (∀ v : Nat, assemble ['d', 'e', 'c'] [v] = if v ≤ 255 then some [BitVec.ofNat 16 (0x2000 + v)] else none)
    ∧ (∀ k : Nat, assemble ['b', 'b', 'a', 'r'] [k] = if k ≤ 8 then some [BitVec.ofNat 16 (0x5000 + 256 * k)] else none)
    ∧ (∀ v b : Nat, assemble ['b', 'n', 'u', 'm'] [v, b]
        = if v ≤ 255 ∧ b ≤ 1 then some [BitVec.ofNat 16 (0x6000 + 256 * b + v)] else none)
    ∧ assemble ['f', 'i', 'l', 'l'] [] = some [0x3000, 0x7000]
    ∧ assemble ['c', 'l', 'e', 'a', 'r'] [] = some [0x4000, 0x7000]
    ∧ (∀ k : Nat, assemble ['b', 'a', 'r'] [k] = if k ≤ 8 then some [BitVec.ofNat 16 (0x5000 + 256 * k), 0x7000] else none)
    ∧ ∀ v b : Nat, assemble ['s', 'h', 'o', 'w'] [v, b]
        = if v ≤ 255 ∧ b ≤ 1 then some [BitVec.ofNat 16 (0x6000 + 256 * b + v), 0x7000] else none
end

