-- ==== Sys2Proof/Laws/Config.lean ====
section
/-!
SUPPORT. The configuration's check as the conditions of R126.
-/
namespace Sys2Proof.Config

/-- A layout is well-formed exactly when R126's five conditions hold. -/
theorem Layout.wf_iff (l : Layout) :
    l.wf = true ↔
      l.unitsCell ≠ l.tensCell
      ∧ (l.hundMask ≠ 0 ∧ l.battMask ≠ 0)
      ∧ (l.extra l.unitsCell &&& 0xFE = 0 ∧ l.extra l.tensCell &&& 0xFE = 0)
      ∧ (l.numBase[l.hundCell] &&& l.hundMask = 0 ∧ l.numBase[l.battCell] &&& l.battMask = 0)
      ∧ (l.hundCell = l.battCell → l.hundMask &&& l.battMask = 0) := by
  unfold Layout.wf
  simp only [Bool.and_eq_true, Bool.or_eq_true, decide_eq_true_eq, Bool.not_eq_true', decide_eq_false_iff_not, and_assoc,
    imp_iff_not_or]

end Sys2Proof.Config
end

