-- ==== Sys2Proof/Laws/Memory.lean ====
section
/-!
SUPPORT. The display RAM: reads after writes, and the canonical form under every operation (R54, R55, R57).
-/
namespace Sys2Proof.Machine

@[simp] theorem Memory.read_nil (a : Nat) : Memory.read [] a = none := rfl

@[simp] theorem Memory.read_cons (k : Nat) (v : Byte) (m : Memory) (a : Nat) :
    Memory.read ((k, v) :: m) a = if k = a then some v else Memory.read m a := rfl

/-- An offset that is listed nowhere is Unknown. -/
theorem Memory.read_eq_none {m : Memory} {a : Nat} (h : ∀ x ∈ m, x.1 ≠ a) : Memory.read m a = none := by
  induction m with
  | nil => rfl
  | cons x m ih =>
    obtain ⟨k, v⟩ := x
    have hk : k ≠ a := h (k, v) (by simp)
    simpa [hk] using ih fun y hy => h y (by simp [hy])

@[simp] theorem Memory.read_write_same (m : Memory) (a : Nat) (b : Byte) : (Memory.write m a b).read a = some b := by
  induction m with
  | nil => simp [Memory.write]
  | cons x m ih =>
    obtain ⟨k, v⟩ := x
    unfold Memory.write
    split_ifs with h1 h2
    · simp
    · simp
    · simpa [show k ≠ a from fun h => h2 h.symm] using ih

theorem Memory.read_write_other (m : Memory) {a a' : Nat} (b : Byte) (h : a' ≠ a) :
    (Memory.write m a b).read a' = m.read a' := by
  induction m with
  | nil => simp [Memory.write, h.symm]
  | cons x m ih =>
    obtain ⟨k, v⟩ := x
    unfold Memory.write
    split_ifs with h1 h2
    · simp [h.symm]
    · subst h2; simp [h.symm]
    · simp [ih]

@[simp] theorem Memory.read_forget_same (m : Memory) (a : Nat) : (Memory.forget m a).read a = none := by
  induction m with
  | nil => rfl
  | cons x m ih =>
    obtain ⟨k, v⟩ := x
    unfold Memory.forget
    split_ifs with h1
    · exact ih
    · simpa [h1] using ih

theorem Memory.read_forget_other (m : Memory) {a a' : Nat} (h : a' ≠ a) : (Memory.forget m a).read a' = m.read a' := by
  induction m with
  | nil => rfl
  | cons x m ih =>
    obtain ⟨k, v⟩ := x
    unfold Memory.forget
    split_ifs with h1
    · subst h1; simp [ih, h.symm]
    · simp [ih]

theorem Memory.mem_write {m : Memory} {a : Nat} {b : Byte} {x : Host.Cell} (h : x ∈ Memory.write m a b) :
    x = (a, b) ∨ x ∈ m := by
  induction m with
  | nil => simpa [Memory.write] using h
  | cons y m ih =>
    obtain ⟨k, v⟩ := y
    unfold Memory.write at h
    split_ifs at h
    · simpa using h
    · rcases List.mem_cons.1 h with h | h <;> simp [h]
    · rcases List.mem_cons.1 h with h | h
      · simp [h]
      · rcases ih h with h | h <;> simp [h]

theorem Memory.mem_forget {m : Memory} {a : Nat} {x : Host.Cell} (h : x ∈ Memory.forget m a) : x ∈ m := by
  induction m with
  | nil => exact h
  | cons y m ih =>
    obtain ⟨k, v⟩ := y
    unfold Memory.forget at h
    split_ifs at h
    · exact List.mem_cons_of_mem _ (ih h)
    · rcases List.mem_cons.1 h with h | h
      · simp [h]
      · exact List.mem_cons_of_mem _ (ih h)

theorem Memory.wf_nil : Memory.wf [] := List.Pairwise.nil

theorem Memory.wf_write {m : Memory} (a : Nat) (b : Byte) (h : Memory.wf m) : Memory.wf (Memory.write m a b) := by
  induction m with
  | nil => simp [Memory.write, Memory.wf]
  | cons x m ih =>
    obtain ⟨k, v⟩ := x
    obtain ⟨hk, hm⟩ := List.pairwise_cons.1 h
    unfold Memory.write
    split_ifs with h1 h2
    · refine List.pairwise_cons.2 ⟨fun y hy => ?_, h⟩
      rcases List.mem_cons.1 hy with rfl | hy
      · exact h1
      · exact Nat.lt_trans h1 (hk y hy)
    · subst h2; exact List.pairwise_cons.2 ⟨hk, hm⟩
    · refine List.pairwise_cons.2 ⟨fun y hy => ?_, ih hm⟩
      rcases Memory.mem_write hy with rfl | hy
      · show k < a; omega
      · exact hk y hy

theorem Memory.wf_forget {m : Memory} (a : Nat) (h : Memory.wf m) : Memory.wf (Memory.forget m a) := by
  induction m with
  | nil => exact h
  | cons x m ih =>
    obtain ⟨k, v⟩ := x
    obtain ⟨hk, hm⟩ := List.pairwise_cons.1 h
    unfold Memory.forget
    split_ifs
    · exact ih hm
    · exact List.pairwise_cons.2 ⟨fun y hy => hk y (Memory.mem_forget hy), ih hm⟩

/-! ## The payloads, and what they do to the display RAM -/

@[simp] theorem decodePayload_rst1 : decodePayload rst1Bytes = .ok .rst1 := rfl

@[simp] theorem decodePayload_rst2 : decodePayload rst2Bytes = .ok .rst2 := rfl

@[simp] theorem decodePayload_cell (c : CellIdx) (d : Byte) : decodePayload (cellBytes c d) = .ok (.cellwr c d) := by
  fin_cases c <;> rfl

@[simp] theorem deliver_rst1 (r : Config.BusResult) (m : Memory) : deliver rst1Bytes r m = [] := rfl

@[simp] theorem deliver_rst2 (r : Config.BusResult) (m : Memory) : deliver rst2Bytes r m = [] := rfl

@[simp] theorem deliver_cell_ok (c : CellIdx) (d : Byte) (m : Memory) :
    deliver (cellBytes c d) .ok m = m.write (2 * c.val) d := by simp [deliver]

@[simp] theorem deliver_cell_err (c : CellIdx) (d : Byte) (m : Memory) :
    deliver (cellBytes c d) .err m = m.forget (2 * c.val) := by simp [deliver]

/-- What any payload does: nothing, or one cell written or forgotten at an even offset of at most 30, or every cell
forgotten (R58). -/
theorem deliver_cases (p : List Byte) (r : Config.BusResult) (m : Memory) :
    deliver p r m = m ∨ deliver p r m = [] ∨
      ∃ c : CellIdx, deliver p r m = m.forget (2 * c.val) ∨ ∃ d, deliver p r m = m.write (2 * c.val) d := by
  unfold deliver
  split
  · rename_i c d _
    cases r
    · exact .inr (.inr ⟨c, .inr ⟨d, rfl⟩⟩)
    · exact .inr (.inr ⟨c, .inl rfl⟩)
  all_goals simp

/-- Every transaction keeps the display RAM's form. -/
theorem deliver_dramOk (p : List Byte) (r : Config.BusResult) {m : Memory}
    (h : Memory.wf m ∧ ∀ x ∈ m, x.1 % 2 = 0 ∧ x.1 ≤ 30) :
    Memory.wf (deliver p r m) ∧ ∀ x ∈ deliver p r m, x.1 % 2 = 0 ∧ x.1 ≤ 30 := by
  obtain h1 | h1 | ⟨c, h1 | ⟨d, h1⟩⟩ := deliver_cases p r m <;> rw [h1]
  · exact h
  · exact ⟨Memory.wf_nil, by simp⟩
  · exact ⟨Memory.wf_forget _ h.1, fun x hx => h.2 x (Memory.mem_forget hx)⟩
  · refine ⟨Memory.wf_write _ _ h.1, fun x hx => ?_⟩
    rcases Memory.mem_write hx with rfl | hx
    · have := c.isLt; exact ⟨by simp, by simp; omega⟩
    · exact h.2 x hx

end Sys2Proof.Machine
end

