-- ==== Sys2Proof/Laws/State.lean ====
section
/-!
SUPPORT. What each named update of the state does to each field. A proof cites these, and does not unfold the update.
-/
namespace Sys2Proof.Machine

@[simp] theorem emit_mode (e : Event) (s : State) : (emit e s).mode = s.mode := rfl
@[simp] theorem emit_phase (e : Event) (s : State) : (emit e s).phase = s.phase := rfl
@[simp] theorem emit_bark (e : Event) (s : State) : (emit e s).bark = s.bark := rfl
@[simp] theorem emit_rval (e : Event) (s : State) : (emit e s).rval = s.rval := rfl
@[simp] theorem emit_rbatt (e : Event) (s : State) : (emit e s).rbatt = s.rbatt := rfl
@[simp] theorem emit_status (e : Event) (s : State) : (emit e s).status = s.status := rfl
@[simp] theorem emit_pat (e : Event) (s : State) : (emit e s).pat = s.pat := rfl
@[simp] theorem emit_patValid (e : Event) (s : State) : (emit e s).patValid = s.patValid := rfl
@[simp] theorem emit_hund (e : Event) (s : State) : (emit e s).hund = s.hund := rfl
@[simp] theorem emit_tens (e : Event) (s : State) : (emit e s).tens = s.tens := rfl
@[simp] theorem emit_units (e : Event) (s : State) : (emit e s).units = s.units := rfl
@[simp] theorem emit_decValid (e : Event) (s : State) : (emit e s).decValid = s.decValid := rfl
@[simp] theorem emit_fb (e : Event) (s : State) : (emit e s).fb = s.fb := rfl
@[simp] theorem emit_fbValid (e : Event) (s : State) : (emit e s).fbValid = s.fbValid := rfl
@[simp] theorem emit_busReq (e : Event) (s : State) : (emit e s).busReq = s.busReq := rfl
@[simp] theorem emit_rdData (e : Event) (s : State) : (emit e s).rdData = s.rdData := rfl
@[simp] theorem emit_dram (e : Event) (s : State) : (emit e s).dram = s.dram := rfl
@[simp] theorem emit_trace (e : Event) (s : State) : (emit e s).trace = s.trace ++ [e] := rfl
@[simp] theorem emit_host (e : Event) (s : State) : (emit e s).host = s.host := rfl
@[simp] theorem emit_busRsp (e : Event) (s : State) : (emit e s).busRsp = s.busRsp := rfl
@[simp] theorem emit_initRsp (e : Event) (s : State) : (emit e s).initRsp = s.initRsp := rfl
@[simp] theorem emit_draws (e : Event) (s : State) : (emit e s).draws = s.draws := rfl
@[simp] theorem emit_cfg (e : Event) (s : State) : (emit e s).cfg = s.cfg := rfl

@[simp] theorem issue_mode (p : List Byte) (s : State) : (issue p s).mode = s.mode := rfl
@[simp] theorem issue_phase (p : List Byte) (s : State) : (issue p s).phase = s.phase := rfl
@[simp] theorem issue_bark (p : List Byte) (s : State) : (issue p s).bark = s.bark := rfl
@[simp] theorem issue_rval (p : List Byte) (s : State) : (issue p s).rval = s.rval := rfl
@[simp] theorem issue_rbatt (p : List Byte) (s : State) : (issue p s).rbatt = s.rbatt := rfl
@[simp] theorem issue_status (p : List Byte) (s : State) : (issue p s).status = s.status := rfl
@[simp] theorem issue_pat (p : List Byte) (s : State) : (issue p s).pat = s.pat := rfl
@[simp] theorem issue_patValid (p : List Byte) (s : State) : (issue p s).patValid = s.patValid := rfl
@[simp] theorem issue_hund (p : List Byte) (s : State) : (issue p s).hund = s.hund := rfl
@[simp] theorem issue_tens (p : List Byte) (s : State) : (issue p s).tens = s.tens := rfl
@[simp] theorem issue_units (p : List Byte) (s : State) : (issue p s).units = s.units := rfl
@[simp] theorem issue_decValid (p : List Byte) (s : State) : (issue p s).decValid = s.decValid := rfl
@[simp] theorem issue_fb (p : List Byte) (s : State) : (issue p s).fb = s.fb := rfl
@[simp] theorem issue_fbValid (p : List Byte) (s : State) : (issue p s).fbValid = s.fbValid := rfl
@[simp] theorem issue_busReq (p : List Byte) (s : State) : (issue p s).busReq = some ⟨devAddr, p, s.cfg.busTimeout⟩ := rfl
@[simp] theorem issue_rdData (p : List Byte) (s : State) : (issue p s).rdData = s.rdData := rfl
@[simp] theorem issue_dram (p : List Byte) (s : State) : (issue p s).dram = s.dram := rfl
@[simp] theorem issue_trace (p : List Byte) (s : State) : (issue p s).trace = s.trace := rfl
@[simp] theorem issue_host (p : List Byte) (s : State) : (issue p s).host = s.host := rfl
@[simp] theorem issue_busRsp (p : List Byte) (s : State) : (issue p s).busRsp = s.busRsp := rfl
@[simp] theorem issue_initRsp (p : List Byte) (s : State) : (issue p s).initRsp = s.initRsp := rfl
@[simp] theorem issue_draws (p : List Byte) (s : State) : (issue p s).draws = s.draws := rfl
@[simp] theorem issue_cfg (p : List Byte) (s : State) : (issue p s).cfg = s.cfg := rfl

@[simp] theorem loadFrame_mode (f : Frame) (s : State) : (loadFrame f s).mode = s.mode := rfl
@[simp] theorem loadFrame_phase (f : Frame) (s : State) : (loadFrame f s).phase = s.phase := rfl
@[simp] theorem loadFrame_bark (f : Frame) (s : State) : (loadFrame f s).bark = s.bark := rfl
@[simp] theorem loadFrame_rval (f : Frame) (s : State) : (loadFrame f s).rval = s.rval := rfl
@[simp] theorem loadFrame_rbatt (f : Frame) (s : State) : (loadFrame f s).rbatt = s.rbatt := rfl
@[simp] theorem loadFrame_status (f : Frame) (s : State) : (loadFrame f s).status = s.status := rfl
@[simp] theorem loadFrame_pat (f : Frame) (s : State) : (loadFrame f s).pat = s.pat := rfl
@[simp] theorem loadFrame_patValid (f : Frame) (s : State) : (loadFrame f s).patValid = s.patValid := rfl
@[simp] theorem loadFrame_hund (f : Frame) (s : State) : (loadFrame f s).hund = s.hund := rfl
@[simp] theorem loadFrame_tens (f : Frame) (s : State) : (loadFrame f s).tens = s.tens := rfl
@[simp] theorem loadFrame_units (f : Frame) (s : State) : (loadFrame f s).units = s.units := rfl
@[simp] theorem loadFrame_decValid (f : Frame) (s : State) : (loadFrame f s).decValid = s.decValid := rfl
@[simp] theorem loadFrame_fb (f : Frame) (s : State) : (loadFrame f s).fb = f := rfl
@[simp] theorem loadFrame_fbValid (f : Frame) (s : State) : (loadFrame f s).fbValid = true := rfl
@[simp] theorem loadFrame_busReq (f : Frame) (s : State) : (loadFrame f s).busReq = s.busReq := rfl
@[simp] theorem loadFrame_rdData (f : Frame) (s : State) : (loadFrame f s).rdData = s.rdData := rfl
@[simp] theorem loadFrame_dram (f : Frame) (s : State) : (loadFrame f s).dram = s.dram := rfl
@[simp] theorem loadFrame_trace (f : Frame) (s : State) : (loadFrame f s).trace = s.trace := rfl
@[simp] theorem loadFrame_host (f : Frame) (s : State) : (loadFrame f s).host = s.host := rfl
@[simp] theorem loadFrame_busRsp (f : Frame) (s : State) : (loadFrame f s).busRsp = s.busRsp := rfl
@[simp] theorem loadFrame_initRsp (f : Frame) (s : State) : (loadFrame f s).initRsp = s.initRsp := rfl
@[simp] theorem loadFrame_draws (f : Frame) (s : State) : (loadFrame f s).draws = s.draws := rfl
@[simp] theorem loadFrame_cfg (f : Frame) (s : State) : (loadFrame f s).cfg = s.cfg := rfl

@[simp] theorem report_mode (c : Code) (i : BitVec 4) (k : PauseKind) (s : State) : (report c i k s).mode = s.mode := rfl
@[simp] theorem report_phase (c : Code) (i : BitVec 4) (k : PauseKind) (s : State) : (report c i k s).phase = s.phase := rfl
@[simp] theorem report_bark (c : Code) (i : BitVec 4) (k : PauseKind) (s : State) : (report c i k s).bark = s.bark := rfl
@[simp] theorem report_rval (c : Code) (i : BitVec 4) (k : PauseKind) (s : State) : (report c i k s).rval = s.rval := rfl
@[simp] theorem report_rbatt (c : Code) (i : BitVec 4) (k : PauseKind) (s : State) : (report c i k s).rbatt = s.rbatt := rfl
@[simp] theorem report_status (c : Code) (i : BitVec 4) (k : PauseKind) (s : State) : (report c i k s).status = statusWord c i k := rfl
@[simp] theorem report_pat (c : Code) (i : BitVec 4) (k : PauseKind) (s : State) : (report c i k s).pat = s.pat := rfl
@[simp] theorem report_patValid (c : Code) (i : BitVec 4) (k : PauseKind) (s : State) : (report c i k s).patValid = s.patValid := rfl
@[simp] theorem report_hund (c : Code) (i : BitVec 4) (k : PauseKind) (s : State) : (report c i k s).hund = s.hund := rfl
@[simp] theorem report_tens (c : Code) (i : BitVec 4) (k : PauseKind) (s : State) : (report c i k s).tens = s.tens := rfl
@[simp] theorem report_units (c : Code) (i : BitVec 4) (k : PauseKind) (s : State) : (report c i k s).units = s.units := rfl
@[simp] theorem report_decValid (c : Code) (i : BitVec 4) (k : PauseKind) (s : State) : (report c i k s).decValid = s.decValid := rfl
@[simp] theorem report_fb (c : Code) (i : BitVec 4) (k : PauseKind) (s : State) : (report c i k s).fb = s.fb := rfl
@[simp] theorem report_fbValid (c : Code) (i : BitVec 4) (k : PauseKind) (s : State) : (report c i k s).fbValid = s.fbValid := rfl
@[simp] theorem report_busReq (c : Code) (i : BitVec 4) (k : PauseKind) (s : State) : (report c i k s).busReq = s.busReq := rfl
@[simp] theorem report_rdData (c : Code) (i : BitVec 4) (k : PauseKind) (s : State) : (report c i k s).rdData = s.rdData := rfl
@[simp] theorem report_dram (c : Code) (i : BitVec 4) (k : PauseKind) (s : State) : (report c i k s).dram = s.dram := rfl
@[simp] theorem report_trace (c : Code) (i : BitVec 4) (k : PauseKind) (s : State) : (report c i k s).trace = s.trace := rfl
@[simp] theorem report_host (c : Code) (i : BitVec 4) (k : PauseKind) (s : State) : (report c i k s).host = s.host := rfl
@[simp] theorem report_busRsp (c : Code) (i : BitVec 4) (k : PauseKind) (s : State) : (report c i k s).busRsp = s.busRsp := rfl
@[simp] theorem report_initRsp (c : Code) (i : BitVec 4) (k : PauseKind) (s : State) : (report c i k s).initRsp = s.initRsp := rfl
@[simp] theorem report_draws (c : Code) (i : BitVec 4) (k : PauseKind) (s : State) : (report c i k s).draws = s.draws := rfl
@[simp] theorem report_cfg (c : Code) (i : BitVec 4) (k : PauseKind) (s : State) : (report c i k s).cfg = s.cfg := rfl

@[simp] theorem takeAnswers_mode (n : Nat) (s : State) : (State.takeAnswers n s).mode = s.mode := rfl
@[simp] theorem takeAnswers_phase (n : Nat) (s : State) : (State.takeAnswers n s).phase = s.phase := rfl
@[simp] theorem takeAnswers_bark (n : Nat) (s : State) : (State.takeAnswers n s).bark = s.bark := rfl
@[simp] theorem takeAnswers_rval (n : Nat) (s : State) : (State.takeAnswers n s).rval = s.rval := rfl
@[simp] theorem takeAnswers_rbatt (n : Nat) (s : State) : (State.takeAnswers n s).rbatt = s.rbatt := rfl
@[simp] theorem takeAnswers_status (n : Nat) (s : State) : (State.takeAnswers n s).status = s.status := rfl
@[simp] theorem takeAnswers_pat (n : Nat) (s : State) : (State.takeAnswers n s).pat = s.pat := rfl
@[simp] theorem takeAnswers_patValid (n : Nat) (s : State) : (State.takeAnswers n s).patValid = s.patValid := rfl
@[simp] theorem takeAnswers_hund (n : Nat) (s : State) : (State.takeAnswers n s).hund = s.hund := rfl
@[simp] theorem takeAnswers_tens (n : Nat) (s : State) : (State.takeAnswers n s).tens = s.tens := rfl
@[simp] theorem takeAnswers_units (n : Nat) (s : State) : (State.takeAnswers n s).units = s.units := rfl
@[simp] theorem takeAnswers_decValid (n : Nat) (s : State) : (State.takeAnswers n s).decValid = s.decValid := rfl
@[simp] theorem takeAnswers_fb (n : Nat) (s : State) : (State.takeAnswers n s).fb = s.fb := rfl
@[simp] theorem takeAnswers_fbValid (n : Nat) (s : State) : (State.takeAnswers n s).fbValid = s.fbValid := rfl
@[simp] theorem takeAnswers_busReq (n : Nat) (s : State) : (State.takeAnswers n s).busReq = s.busReq := rfl
@[simp] theorem takeAnswers_rdData (n : Nat) (s : State) : (State.takeAnswers n s).rdData = s.rdData := rfl
@[simp] theorem takeAnswers_dram (n : Nat) (s : State) : (State.takeAnswers n s).dram = s.dram := rfl
@[simp] theorem takeAnswers_trace (n : Nat) (s : State) : (State.takeAnswers n s).trace = s.trace := rfl
@[simp] theorem takeAnswers_host (n : Nat) (s : State) : (State.takeAnswers n s).host = s.host := rfl
@[simp] theorem takeAnswers_busRsp (n : Nat) (s : State) : (State.takeAnswers n s).busRsp = s.busRsp.drop n := rfl
@[simp] theorem takeAnswers_initRsp (n : Nat) (s : State) : (State.takeAnswers n s).initRsp = s.initRsp := rfl
@[simp] theorem takeAnswers_draws (n : Nat) (s : State) : (State.takeAnswers n s).draws = s.draws + (n - s.busRsp.length) := rfl
@[simp] theorem takeAnswers_cfg (n : Nat) (s : State) : (State.takeAnswers n s).cfg = s.cfg := rfl

@[simp] theorem takeInit_mode (s : State) : (State.takeInit s).mode = s.mode := rfl
@[simp] theorem takeInit_phase (s : State) : (State.takeInit s).phase = s.phase := rfl
@[simp] theorem takeInit_bark (s : State) : (State.takeInit s).bark = s.bark := rfl
@[simp] theorem takeInit_rval (s : State) : (State.takeInit s).rval = s.rval := rfl
@[simp] theorem takeInit_rbatt (s : State) : (State.takeInit s).rbatt = s.rbatt := rfl
@[simp] theorem takeInit_status (s : State) : (State.takeInit s).status = s.status := rfl
@[simp] theorem takeInit_pat (s : State) : (State.takeInit s).pat = s.pat := rfl
@[simp] theorem takeInit_patValid (s : State) : (State.takeInit s).patValid = s.patValid := rfl
@[simp] theorem takeInit_hund (s : State) : (State.takeInit s).hund = s.hund := rfl
@[simp] theorem takeInit_tens (s : State) : (State.takeInit s).tens = s.tens := rfl
@[simp] theorem takeInit_units (s : State) : (State.takeInit s).units = s.units := rfl
@[simp] theorem takeInit_decValid (s : State) : (State.takeInit s).decValid = s.decValid := rfl
@[simp] theorem takeInit_fb (s : State) : (State.takeInit s).fb = s.fb := rfl
@[simp] theorem takeInit_fbValid (s : State) : (State.takeInit s).fbValid = s.fbValid := rfl
@[simp] theorem takeInit_busReq (s : State) : (State.takeInit s).busReq = s.busReq := rfl
@[simp] theorem takeInit_rdData (s : State) : (State.takeInit s).rdData = s.rdData := rfl
@[simp] theorem takeInit_dram (s : State) : (State.takeInit s).dram = s.dram := rfl
@[simp] theorem takeInit_trace (s : State) : (State.takeInit s).trace = s.trace := rfl
@[simp] theorem takeInit_host (s : State) : (State.takeInit s).host = s.host := rfl
@[simp] theorem takeInit_busRsp (s : State) : (State.takeInit s).busRsp = s.busRsp := rfl
@[simp] theorem takeInit_initRsp (s : State) : (State.takeInit s).initRsp = s.initRsp.drop 1 := rfl
@[simp] theorem takeInit_draws (s : State) : (State.takeInit s).draws = s.draws + (1 - s.initRsp.length) := rfl
@[simp] theorem takeInit_cfg (s : State) : (State.takeInit s).cfg = s.cfg := rfl

@[simp] theorem replay_mode (es : List Event) (s : State) : (replay es s).mode = s.mode := rfl
@[simp] theorem replay_phase (es : List Event) (s : State) : (replay es s).phase = s.phase := rfl
@[simp] theorem replay_bark (es : List Event) (s : State) : (replay es s).bark = s.bark := rfl
@[simp] theorem replay_rval (es : List Event) (s : State) : (replay es s).rval = s.rval := rfl
@[simp] theorem replay_rbatt (es : List Event) (s : State) : (replay es s).rbatt = s.rbatt := rfl
@[simp] theorem replay_status (es : List Event) (s : State) : (replay es s).status = s.status := rfl
@[simp] theorem replay_pat (es : List Event) (s : State) : (replay es s).pat = s.pat := rfl
@[simp] theorem replay_patValid (es : List Event) (s : State) : (replay es s).patValid = s.patValid := rfl
@[simp] theorem replay_hund (es : List Event) (s : State) : (replay es s).hund = s.hund := rfl
@[simp] theorem replay_tens (es : List Event) (s : State) : (replay es s).tens = s.tens := rfl
@[simp] theorem replay_units (es : List Event) (s : State) : (replay es s).units = s.units := rfl
@[simp] theorem replay_decValid (es : List Event) (s : State) : (replay es s).decValid = s.decValid := rfl
@[simp] theorem replay_fb (es : List Event) (s : State) : (replay es s).fb = s.fb := rfl
@[simp] theorem replay_fbValid (es : List Event) (s : State) : (replay es s).fbValid = s.fbValid := rfl
@[simp] theorem replay_busReq (es : List Event) (s : State) : (replay es s).busReq = s.busReq := rfl
@[simp] theorem replay_rdData (es : List Event) (s : State) : (replay es s).rdData = s.rdData := rfl
@[simp] theorem replay_dram (es : List Event) (s : State) : (replay es s).dram = es.foldl Event.deliver s.dram := rfl
@[simp] theorem replay_trace (es : List Event) (s : State) : (replay es s).trace = s.trace ++ es := rfl
@[simp] theorem replay_host (es : List Event) (s : State) : (replay es s).host = s.host := rfl
@[simp] theorem replay_busRsp (es : List Event) (s : State) : (replay es s).busRsp = s.busRsp.drop (countTxns es) := rfl
@[simp] theorem replay_initRsp (es : List Event) (s : State) : (replay es s).initRsp = s.initRsp.drop (countInits es) := rfl
@[simp] theorem replay_draws (es : List Event) (s : State) : (replay es s).draws = s.draws := rfl
@[simp] theorem replay_cfg (es : List Event) (s : State) : (replay es s).cfg = s.cfg := rfl

end Sys2Proof.Machine
end

