-- ==== Sys2Proof/Laws/Ops.lean ====
section
/-!
SUPPORT. One lemma for each shared operation that says everything it does: a transaction, a frame write, the reset pair, the
bus initialisation, the mode gate, the reports and the block reset.
-/
namespace Sys2Proof.Machine

/-! ## Answers of the transport -/

theorem nextAnswer_eq (s : State) : nextAnswer s = s.answerAt 0 := by
  unfold nextAnswer State.answerAt
  cases s.busRsp <;> simp

theorem dropAnswer_eq (s : State) : dropAnswer s = s.takeAnswers 1 := by
  unfold dropAnswer State.takeAnswers
  cases h : s.busRsp <;> cases s <;> simp_all

theorem State.takeAnswers_zero (s : State) : s.takeAnswers 0 = s := by
  unfold State.takeAnswers; cases s; simp

theorem State.takeAnswers_add (s : State) (m n : Nat) : (s.takeAnswers m).takeAnswers n = s.takeAnswers (m + n) := by
  unfold State.takeAnswers
  simp only [List.drop_drop, List.length_drop, State.mk.injEq, true_and, and_true]
  omega

/-- The answers of a state that has used up n of them are the ones from the n-th on. -/
theorem State.answerAt_takeAnswers (s : State) (n k : Nat) : (s.takeAnswers n).answerAt k = s.answerAt (n + k) := by
  unfold State.answerAt
  simp only [takeAnswers_busRsp, takeAnswers_draws, List.getElem?_drop, List.length_drop]
  split <;> rename_i h
  · rfl
  · have := List.getElem?_eq_none_iff.1 h
    congr 1; omega

/-- Every bus gives n answers that are all Ok, or has a first Err among them: the cases of a sent frame leave none out (R52). -/
theorem State.answers_ok_or_first_err (s : State) (n : Nat) :
    (∀ k < n, s.answerAt k = .ok) ∨ ∃ c < n, (∀ k < c, s.answerAt k = .ok) ∧ s.answerAt c = .err := by
  induction n with
  | zero => exact .inl (by simp)
  | succ n ih =>
    obtain hok | ⟨c, hc, h⟩ := ih
    · cases hn : s.answerAt n
      · exact .inl fun k hk => (Nat.lt_succ_iff_lt_or_eq.1 hk).elim (hok k) (· ▸ hn)
      · exact .inr ⟨n, n.lt_succ_self, hok, hn⟩
    · exact .inr ⟨c, by omega, h⟩

/-! ## Transactions -/

/-- The state after the transaction with this payload, whatever its result. -/
def afterTxn (p : List Byte) (s : State) : State :=
  { s.takeAnswers 1 with
    busReq := none
    dram := deliver p (s.answerAt 0) s.dram
    trace := s.trace ++ [.txn p (s.answerAt 0)] }

theorem settle_none (r : Config.BusResult) {s : State} (h : s.busReq = none) : settle r s = s := by
  simp [settle, h]

theorem settle_some (r : Config.BusResult) {s : State} {q : BusRequest} (h : s.busReq = some q) :
    settle r s = emit (.txn q.payload r) { s with busReq := none, dram := deliver q.payload r s.dram } := by
  simp [settle, h]

/-- One transaction: the next answer is its result, and nothing but the port, the display RAM, the trace and the answers
changes. -/
theorem busWrite_eq (p : List Byte) (s : State) : busWrite p s = (s.answerAt 0, afterTxn p s) := by
  have hr : nextAnswer s = s.answerAt 0 := nextAnswer_eq s
  unfold busWrite afterTxn
  rw [hr, dropAnswer_eq]
  dsimp only
  rw [settle_some _ (q := ⟨devAddr, p, s.cfg.busTimeout⟩) (by simp)]
  simp [emit, issue, State.takeAnswers]

theorem afterTxn_answerAt (p : List Byte) (s : State) (k : Nat) : (afterTxn p s).answerAt k = s.answerAt (k + 1) := by
  rw [Nat.add_comm, ← State.answerAt_takeAnswers]; rfl

/-! ## The frame writer -/

/-- The events of writing these cells, all with Ok. -/
def cellTxns (f : Frame) (cs : List CellIdx) : List Event := cs.map fun c => .txn (cellBytes c f[c]) .ok

/-- The display RAM after these cells were written with Ok. -/
def cellsWritten (f : Frame) (cs : List CellIdx) (m : Memory) : Memory :=
  cs.foldl (fun m c => m.write (2 * c.val) f[c]) m

/-- Every write returns Ok: every cell is written, in order (R128). -/
theorem writeCells_ok (f : Frame) (c : CellIdx) (cs : List CellIdx) (s : State)
    (h : ∀ k ≤ cs.length, s.answerAt k = .ok) :
    writeCells f (c :: cs) s = (.ok, { s.takeAnswers (cs.length + 1) with
      busReq := none, dram := cellsWritten f (c :: cs) s.dram, trace := s.trace ++ cellTxns f (c :: cs) }) := by
  induction cs generalizing c s with
  | nil =>
    simp only [writeCells, busWrite_eq, h 0 (by simp), afterTxn]
    simp [cellsWritten, cellTxns]
  | cons c' cs ih =>
    rw [writeCells, busWrite_eq, h 0 (by simp)]
    simp only
    rw [ih c' (afterTxn (cellBytes c f[c]) s) fun k hk => by
      rw [afterTxn_answerAt]; exact h (k + 1) (by simpa using hk)]
    have h0 := h 0 (by simp)
    simp only [afterTxn, h0, deliver_cell_ok, cellsWritten, cellTxns, List.foldl_cons, List.map_cons, List.length_cons,
      List.append_assoc, List.singleton_append, Prod.mk.injEq, true_and]
    have := State.takeAnswers_add s 1 (cs.length + 1)
    simp only [State.takeAnswers, State.mk.injEq, true_and, and_true] at this ⊢
    rw [show 1 + (cs.length + 1) = cs.length + 1 + 1 by omega] at this
    exact this

/-- The writes return Ok for the cells `as` and Err for the next one, c: the cells of `as` are written, c is forgotten, and the
rest are not sent (R128). -/
theorem writeCells_err (f : Frame) (as : List CellIdx) (c : CellIdx) (cs : List CellIdx) (s : State)
    (hok : ∀ k < as.length, s.answerAt k = .ok) (herr : s.answerAt as.length = .err) :
    writeCells f (as ++ c :: cs) s = (.err (BitVec.ofNat 4 c.val), { s.takeAnswers (as.length + 1) with
      busReq := none, dram := (cellsWritten f as s.dram).forget (2 * c.val)
      trace := s.trace ++ cellTxns f as ++ [.txn (cellBytes c f[c]) .err] }) := by
  induction as generalizing s with
  | nil =>
    simp only [List.nil_append, writeCells, busWrite_eq]
    simp only [List.length_nil] at herr
    simp [herr, afterTxn, cellsWritten, cellTxns]
  | cons a as ih =>
    have h0 := hok 0 (by simp)
    rw [List.cons_append, writeCells, busWrite_eq, h0]
    simp only
    rw [ih (afterTxn (cellBytes a f[a]) s)
      (fun k hk => by rw [afterTxn_answerAt]; exact hok (k + 1) (by simpa using hk))
      (by rw [afterTxn_answerAt]; simpa using herr)]
    simp only [afterTxn, h0, deliver_cell_ok, cellsWritten, cellTxns, List.foldl_cons, List.map_cons, List.length_cons,
      List.append_assoc, List.nil_append, List.cons_append, Prod.mk.injEq, true_and]
    have := State.takeAnswers_add s 1 (as.length + 1)
    simp only [State.takeAnswers, State.mk.injEq, true_and, and_true] at this ⊢
    rw [show 1 + (as.length + 1) = as.length + 1 + 1 by omega] at this
    exact this

/-- The transactions of these cells with the next answers, one answer each, in order (R52). -/
def sentCells (f : Frame) (s : State) (cs : List CellIdx) : List Event :=
  cs.mapIdx fun k c => .txn (cellBytes c f[c]) (s.answerAt k)

theorem sentCells_cons (f : Frame) (s : State) (c : CellIdx) (cs : List CellIdx) :
    sentCells f s (c :: cs) = .txn (cellBytes c f[c]) (s.answerAt 0) :: sentCells f (afterTxn (cellBytes c f[c]) s) cs := by
  simp [sentCells, List.mapIdx_cons, afterTxn_answerAt]

/-- Whatever the results, a frame write sends the first n of its cells with the next n answers, and changes only the port, the
display RAM, the trace and the answers (R34, R128). -/
theorem writeCells_sends (f : Frame) (cs : List CellIdx) (s : State) :
    ∃ n ≤ cs.length, ∃ q, (q = none ∨ q = s.busReq) ∧ (writeCells f cs s).2 = { s.takeAnswers n with
      busReq := q
      dram := (sentCells f s (cs.take n)).foldl Event.deliver s.dram
      trace := s.trace ++ sentCells f s (cs.take n) } := by
  induction cs generalizing s with
  | nil => exact ⟨0, le_rfl, s.busReq, .inr rfl, by simp [writeCells, State.takeAnswers, sentCells]⟩
  | cons c cs ih =>
    rw [writeCells, busWrite_eq]
    cases hr : s.answerAt 0
    · obtain ⟨n, hn, q, hq, heq⟩ := ih (afterTxn (cellBytes c f[c]) s)
      refine ⟨n + 1, by simpa using hn, q, .inl (by simpa [afterTxn] using hq), ?_⟩
      simp only [heq, List.take_succ_cons, sentCells_cons]
      have := State.takeAnswers_add s 1 n
      rw [Nat.add_comm 1 n] at this
      simp only [State.takeAnswers, afterTxn, hr, State.mk.injEq, true_and, and_true, List.foldl_cons, Event.deliver,
        List.append_assoc, List.singleton_append] at this ⊢
      exact this
    · exact ⟨1, by simp, none, .inl rfl, by simp [afterTxn, hr, Event.deliver, sentCells]⟩

/-- Whatever the results, a frame write changes only the port, the display RAM, the trace, the answers and FB_VALID, and its
events are transactions with payloads of the block. -/
theorem writeCells_frame (f : Frame) (cs : List CellIdx) (s : State) :
    ∃ es : List Event, ∃ n : Nat, (∀ e ∈ es, ∃ c r, e = .txn (cellBytes c f[c]) r) ∧
      ∃ q, (writeCells f cs s).2 = { s.takeAnswers n with
        busReq := q, dram := es.foldl Event.deliver s.dram, trace := s.trace ++ es } ∧ (q = none ∨ q = s.busReq) := by
  obtain ⟨n, -, q, hq, heq⟩ := writeCells_sends f cs s
  refine ⟨_, n, fun e he => ?_, q, heq, hq⟩
  obtain ⟨k, hk, rfl⟩ := List.mem_mapIdx.1 he
  exact ⟨_, _, rfl⟩

/-- The answers of a whole frame are all Ok: every cell is written (R128). -/
theorem writeCells_all_ok (f : Frame) (s : State) (h : ∀ k < 16, s.answerAt k = .ok) :
    writeCells f allCells s = (.ok, { s.takeAnswers 16 with
      busReq := none, dram := cellsWritten f allCells s.dram, trace := s.trace ++ cellTxns f allCells }) :=
  writeCells_ok f 0 allCells.tail s fun k hk => h k (by simp [allCells] at hk; omega)

/-- The first Err of a frame answers cell c: the cells before it are written, and it is forgotten (R128). -/
theorem writeCells_all_err (f : Frame) (c : CellIdx) (s : State)
    (hok : ∀ k < c.val, s.answerAt k = .ok) (herr : s.answerAt c.val = .err) :
    writeCells f allCells s = (.err (BitVec.ofNat 4 c.val), { s.takeAnswers (c.val + 1) with
      busReq := none, dram := (cellsWritten f (allCells.take c.val) s.dram).forget (2 * c.val)
      trace := s.trace ++ cellTxns f (allCells.take c.val) ++ [.txn (cellBytes c f[c]) .err] }) := by
  have hsplit : allCells = allCells.take c.val ++ c :: allCells.drop (c.val + 1) := by
    clear hok herr; revert c; decide
  have hl : (allCells.take c.val).length = c.val := by simp [allCells]
  conv_lhs => rw [hsplit]
  rw [writeCells_err f (allCells.take c.val) c _ s (by rw [hl]; exact hok) (by rw [hl]; exact herr), hl]

/-- A frame built and sent with 16 Ok answers (R128, R152). -/
theorem sendFrame_ok (f : Frame) (s : State) (h : ∀ k < 16, s.answerAt k = .ok) :
    sendFrame f s = (.ok, { s.takeAnswers 16 with
      busReq := none, fb := f, fbValid := false
      dram := cellsWritten f allCells s.dram, trace := s.trace ++ cellTxns f allCells }) := by
  have hw := writeCells_all_ok f (loadFrame f s) h
  simp only [sendFrame, writeFrame, loadFrame_fb, hw]
  rfl

/-- A frame built and sent, with its first Err at cell c (R128, R152). -/
theorem sendFrame_err (f : Frame) (c : CellIdx) (s : State)
    (hok : ∀ k < c.val, s.answerAt k = .ok) (herr : s.answerAt c.val = .err) :
    sendFrame f s = (.err (BitVec.ofNat 4 c.val), { s.takeAnswers (c.val + 1) with
      busReq := none, fb := f, fbValid := false
      dram := (cellsWritten f (allCells.take c.val) s.dram).forget (2 * c.val)
      trace := s.trace ++ cellTxns f (allCells.take c.val) ++ [.txn (cellBytes c f[c]) .err] }) := by
  have hw := writeCells_all_err f c (loadFrame f s) hok herr
  simp only [sendFrame, writeFrame, loadFrame_fb, hw]
  rfl

/-- Whatever the answers, a frame built and sent changes only FB, FB_VALID, the port, the display RAM, the trace and the answers;
its events are cell writes of the frame, and the display RAM is their fold (R63, R132). -/
theorem sendFrame_frame (f : Frame) (s : State) :
    ∃ es : List Event, ∃ n : Nat, (∀ e ∈ es, ∃ c r, e = .txn (cellBytes c f[c]) r) ∧
      ∃ q, (sendFrame f s).2 = { s.takeAnswers n with
        busReq := q, fb := f, fbValid := false, dram := es.foldl Event.deliver s.dram, trace := s.trace ++ es } ∧
        (q = none ∨ q = s.busReq) := by
  obtain ⟨es, n, hes, q, heq, hq⟩ := writeCells_frame f allCells (loadFrame f s)
  refine ⟨es, n, hes, q, ?_, hq⟩
  simp only [sendFrame, writeFrame, loadFrame_fb, heq]
  rfl

/-- An offset that is no written cell's reads as before. -/
theorem cellsWritten_read_other (f : Frame) (cs : List CellIdx) (m : Memory) {a : Nat} (h : ∀ c ∈ cs, a ≠ 2 * c.val) :
    (cellsWritten f cs m).read a = m.read a := by
  induction cs generalizing m with
  | nil => rfl
  | cons c cs ih =>
    simp only [cellsWritten, List.foldl_cons] at ih ⊢
    rw [ih _ fun c' h' => h c' (by simp [h'])]
    exact Memory.read_write_other _ _ (h c (by simp))

/-- A written cell is Known with the frame's byte (R55). -/
theorem cellsWritten_read (f : Frame) (cs : List CellIdx) (m : Memory) {c : CellIdx} (h : c ∈ cs) :
    (cellsWritten f cs m).read (2 * c.val) = some f[c] := by
  induction cs generalizing m with
  | nil => simp at h
  | cons x cs ih =>
    by_cases hc : c ∈ cs
    · exact ih _ hc
    · have hx : c = x := by simpa [hc] using h
      subst hx
      have hother := cellsWritten_read_other f cs (m.write (2 * c.val) f[c]) (a := 2 * c.val) fun c' h' e =>
        hc ((Fin.ext (by omega) : c = c') ▸ h')
      simp only [cellsWritten, List.foldl_cons] at hother ⊢
      rw [hother]; simp

/-! ## The reset pair -/

/-- `reset_controller`: both writes are issued whatever their results, every cell is Unknown, and the first failure is
reported (R57, R129). -/
theorem resetController_eq (s : State) :
    resetController s =
      ((match s.answerAt 0, s.answerAt 1 with
        | .err, _ => .err 0
        | .ok, .err => .err 1
        | .ok, .ok => .ok),
       { s.takeAnswers 2 with
          busReq := none, dram := []
          trace := s.trace ++ [.txn rst1Bytes (s.answerAt 0), .txn rst2Bytes (s.answerAt 1)] }) := by
  have h1 : (afterTxn rst1Bytes s).answerAt 0 = s.answerAt 1 := afterTxn_answerAt _ _ _
  have h2 : afterTxn rst2Bytes (afterTxn rst1Bytes s) = { s.takeAnswers 2 with
      busReq := none, dram := []
      trace := s.trace ++ [.txn rst1Bytes (s.answerAt 0), .txn rst2Bytes (s.answerAt 1)] } := by
    have := State.takeAnswers_add s 1 1
    simp only [afterTxn, h1] at *
    simp only [State.takeAnswers, deliver_rst2, State.mk.injEq, true_and, and_true, List.append_assoc,
      List.singleton_append] at this ⊢
    exact this
  simp only [resetController, busWrite_eq, h1, h2]
  cases s.answerAt 0 <;> cases s.answerAt 1 <;> rfl

/-! ## Initialisation, reports, gates -/

/-- `BusInit`: the next answer is its result, and only the trace and the answers change. -/
theorem busInit_eq (s : State) :
    busInit s = (s.initAnswer, { s.takeInit with trace := s.trace ++ [.busInit s.initAnswer] }) := by
  unfold busInit State.initAnswer State.takeInit
  cases h : s.initRsp <;> cases s <;> simp_all [emit]

@[simp] theorem complete_eq (s : State) : complete s = { s with status := 0 } := rfl

@[simp] theorem refuse_eq (c : Code) (s : State) : refuse c s = { s with status := statusWord c 0 .none } := rfl

theorem reportWrite_ok (k : PauseKind) (s : State) : reportWrite .ok k s = report .ok 0 k s := rfl

theorem reportWrite_err (i : BitVec 4) (k : PauseKind) (s : State) :
    reportWrite (.err i) k s = report .busWriteError i k s := rfl

/-- A report of bus writes writes STATUS alone. -/
theorem reportWrite_status (res : WriteResult) (k : PauseKind) (s : State) :
    ∃ w, reportWrite res k s = { s with status := w } ∧
      ((res = .ok ∧ w = statusWord .ok 0 k) ∨ ∃ i, res = .err i ∧ w = statusWord .busWriteError i k) := by
  cases res with
  | ok => exact ⟨_, rfl, .inl ⟨rfl, rfl⟩⟩
  | err i => exact ⟨_, rfl, .inr ⟨i, rfl, rfl⟩⟩

/-- A pause request adds at most one event to the trace. -/
theorem requestPause_eq (k : PauseKind) (s : State) :
    requestPause k s = { s with trace := s.trace ++ if k = .none then [] else [.pause k] } := by
  cases k <;> simp [requestPause, emit]

/-- The mode gate: the command runs, or STATUS alone is written with the code of R76. -/
theorem unlessRefused_cases (code : Option Code) (run : State → State) (s : State) :
    (code = none ∧ unlessRefused code run s = run s) ∨
      ∃ c, code = some c ∧ unlessRefused code run s = { s with status := statusWord c 0 .none } := by
  cases code with
  | none => exact .inl ⟨rfl, rfl⟩
  | some c => exact .inr ⟨c, rfl, rfl⟩

/-- The fields of STATUS are the ones it was written with (R25). -/
theorem statusWord_fields (c : Code) (i : BitVec 4) (k : PauseKind) :
    (statusWord c i k).extractLsb' 0 4 = c.bits ∧ (statusWord c i k).extractLsb' 4 4 = i ∧
      (statusWord c i k).extractLsb' 8 2 = k.bits ∧ (statusWord c i k).extractLsb' 10 6 = 0 := by
  revert i; cases c <;> cases k <;> decide

/-! ## Reset -/

/-- The block reset with nothing in flight: every block register is as after power-on, and the rest stays (R200). -/
theorem blockReset_idle {s : State} (h : s.busReq = none) :
    blockReset s = { State.reset with
      rdData := s.rdData, dram := s.dram, trace := s.trace, host := s.host, busRsp := s.busRsp, initRsp := s.initRsp,
      draws := s.draws, cfg := s.cfg } := by
  simp [blockReset, settle_none _ h]

/-- The block reset with a request in flight: its effect is that of an Err (R201). -/
theorem blockReset_inFlight {s : State} {q : BusRequest} (h : s.busReq = some q) :
    blockReset s = { State.reset with
      rdData := s.rdData, dram := deliver q.payload .err s.dram, trace := s.trace ++ [.txn q.payload .err]
      host := s.host, busRsp := s.busRsp, initRsp := s.initRsp, draws := s.draws, cfg := s.cfg } := by
  simp [blockReset, settle_some _ h]

/-! ## Frames -/

theorem frameOf_get (f : CellIdx → Byte) (c : CellIdx) : (frameOf f)[c] = f c := by
  fin_cases c <;> rfl

end Sys2Proof.Machine
end

