-- ==== Sys2Proof/Laws/PerInstr.lean ====
section
/-!
SUPPORT. Laws made per instruction. `OneEncoding`: an instruction has exactly one of the two encodings, a command word (R70) or
a payload (R79), and its table number has that encoding's length.
-/
namespace Sys2Proof.Laws.OneEncoding

/-- A command has a 16-bit word and no payload; a payload has bytes and no command word. -/
def Statement (i : Instr) : Prop :=
  (i.isPayload = false ∧ (∃ w, encodeCommand i = some w ∧ encode i = (16, w.toNat)) ∧ encodePayload i = none) ∨
    (i.isPayload = true ∧ encodeCommand i = none ∧
      ∃ bs, encodePayload i = some bs ∧ encode i = (8 * bs.length, bytesToNat bs))

theorem enc (d : Byte) : Statement (.enc d) := .inl ⟨rfl, ⟨_, rfl, rfl⟩, rfl⟩
theorem dec (v : Byte) : Statement (.dec v) := .inl ⟨rfl, ⟨_, rfl, rfl⟩, rfl⟩
theorem bfill : Statement .bfill := .inl ⟨rfl, ⟨_, rfl, rfl⟩, rfl⟩
theorem bclr : Statement .bclr := .inl ⟨rfl, ⟨_, rfl, rfl⟩, rfl⟩
theorem bbar (k : BitVec 4) : Statement (.bbar k) := .inl ⟨rfl, ⟨_, rfl, rfl⟩, rfl⟩
theorem bnum (v : Byte) (b : Bool) : Statement (.bnum v b) := .inl ⟨rfl, ⟨_, rfl, rfl⟩, rfl⟩
theorem wrf : Statement .wrf := .inl ⟨rfl, ⟨_, rfl, rfl⟩, rfl⟩
theorem crst : Statement .crst := .inl ⟨rfl, ⟨_, rfl, rfl⟩, rfl⟩
theorem start : Statement .start := .inl ⟨rfl, ⟨_, rfl, rfl⟩, rfl⟩
theorem step : Statement .step := .inl ⟨rfl, ⟨_, rfl, rfl⟩, rfl⟩
theorem rst1 : Statement .rst1 := .inr ⟨rfl, rfl, _, rfl, rfl⟩
theorem rst2 : Statement .rst2 := .inr ⟨rfl, rfl, _, rfl, rfl⟩
theorem cellwr (c : CellIdx) (d : Byte) : Statement (.cellwr c d) := .inr ⟨rfl, rfl, _, rfl, rfl⟩

end Sys2Proof.Laws.OneEncoding
end

