-- ==== Sys2Proof/Tests/Slice0.lean ====
section
/-!
SUPPORT. The model's own tests. Expected results are the spec's: the opcode map (R72, R79), the worked examples and the derived
vectors of 95_test_vectors.md (their names stand with the tests). Then, for each statement with hypotheses, a witness that meets
them, with its boundary values.
-/
namespace Sys2Proof.Tests

open Sys2Proof.Machine Sys2Proof.Claims

/-! ## Helpers -/

/-- After reset, with the spec's example layout E (which stands as the type's default) and BATT_INIT = 0. -/
def base : State := { State.reset with cfg := {} }

/-- `base` with these answers queued on BUS_RSP. -/
def withAnswers (rs : List Config.BusResult) (s : State) : State := { s with busRsp := rs }

/-- `n` Ok answers and then an Err. -/
def okThenErr (n : Nat) : List Config.BusResult := List.replicate n .ok ++ [.err]

/-- In SEQUENCING, in this phase, with these answers. -/
def sequencing (ph : Phase) (k : BitVec 4) (rs : List Config.BusResult) : State :=
  { base with mode := .sequencing, phase := ph, bark := k, busRsp := rs }

/-- What a next state shows. -/
def seen {α : Type} (f : State → α) (o : Host.Outcome State Fault Refusal) : Option α :=
  match o with
  | .next t => some (f t)
  | .fault _ => none
  | .refused _ => none

/-- One step on a command word. -/
def onWord (w : Word) (s : State) : Host.Outcome State Fault Refusal := step { s with host := [.command w] }

/-- What a read of register rn returns. -/
def readBack (rn : BitVec 5) (s : State) : Option (BitVec 32) := seen (·.rdData) (step { s with host := [.read rn] })

/-! ## Encodings, written out bit by bit -/

theorem test_decode_enc : decodeCommand 0b0001_0000_00000111 = .ok (.enc 7) := by decide
theorem test_decode_dec : decodeCommand 0b0010_0000_00101010 = .ok (.dec 42) := by decide
theorem test_decode_bfill : decodeCommand 0b0011_0000_00000000 = .ok .bfill := by decide
theorem test_decode_bclr : decodeCommand 0b0100_0000_00000000 = .ok .bclr := by decide
theorem test_decode_bbar : decodeCommand 0b0101_1000_00000000 = .ok (.bbar 8) := by decide
theorem test_decode_bnum : decodeCommand 0b0110_0001_00101010 = .ok (.bnum 42 true) := by decide
theorem test_decode_wrf : decodeCommand 0b0111_0000_00000000 = .ok .wrf := by decide
theorem test_decode_crst : decodeCommand 0b1000_0000_00000000 = .ok .crst := by decide
theorem test_decode_start : decodeCommand 0b1001_0000_00000000 = .ok .start := by decide
theorem test_decode_step : decodeCommand 0b1010_0000_00000000 = .ok .step := by decide
theorem test_decode_rst1 : decodePayload [0b11100000, 0b01001000] = .ok .rst1 := by decide
theorem test_decode_rst2 : decodePayload [0b11100000, 0b01110000] = .ok .rst2 := by decide
theorem test_decode_cellwr : decodePayload [0b11100000, 0b00001010, 0b10100101] = .ok (.cellwr 5 0xA5) := by decide
theorem test_decode_reserved : decodeCommand 0xF123 = .error .reservedOpcode := by decide
theorem test_decode_bar_nine : decodeCommand 0x5900 = .error .barIndexOutOfRange := by decide
theorem test_decode_bnum_a1 : decodeCommand 0x6269 = .error .mustBeZero := by decide
theorem test_decode_odd_offset : decodePayload [0xE0, 0x01, 0x00] = .error .notAPayload := by decide
theorem test_decode_offset_32 : decodePayload [0xE0, 0x20, 0x00] = .error .notAPayload := by decide
theorem test_encode_show : (encode (.bnum 105 true)) = (16, 0x6169) := by decide
theorem test_encode_cellwr : (encode (.cellwr 15 0xFF)) = (24, 0xE01EFF) := by decide

/-! ## Well-formedness -/

theorem test_wf_bar_eight : (Instr.bbar 8).wf = true := by decide
theorem test_wf_bar_nine : (Instr.bbar 9).wf = false := by decide
theorem test_layout_e : ({} : Config.Layout).wf = true := by decide
/-- R126, condition 1. -/
theorem test_layout_same_cell : ({ tensCell := 1 } : Config.Layout).wf = false := by decide
/-- R126, condition 2. -/
theorem test_layout_no_hundreds : ({ hundMask := 0 } : Config.Layout).wf = false := by decide
theorem test_layout_no_battery : ({ battMask := 0 } : Config.Layout).wf = false := by decide
/-- R126, condition 3: V-FB-14, and the same in the tens cell. -/
theorem test_layout_units_extra :
    ({ numBase := #v[2, 0x80, 0, 0, 0, 0, 0, 0, 0, 0, 0, 0, 0, 0, 0, 0] } : Config.Layout).wf = false := by decide
theorem test_layout_tens_extra : ({ battCell := 2, battMask := 0x02 } : Config.Layout).wf = false := by decide
/-- R126, condition 4. -/
theorem test_layout_hundreds_lit :
    ({ numBase := #v[0, 0, 0, 0x40, 0, 0, 0, 0, 0, 0, 0, 0, 0, 0, 0, 0] } : Config.Layout).wf = false := by decide
theorem test_layout_battery_lit :
    ({ numBase := #v[1, 0, 0, 0, 0, 0, 0, 0, 0, 0, 0, 0, 0, 0, 0, 0] } : Config.Layout).wf = false := by decide
/-- R126, condition 5. -/
theorem test_layout_masks_overlap : ({ battCell := 3, battMask := 0x20 } : Config.Layout).wf = false := by decide

/-! ## Encoder and decomposer -/

/-- V-ENC-6: the fallback is no error. -/
theorem test_enc_fallback : seen (fun t => (t.pat, t.patValid, t.status)) (onWord 0x10FF base) = some (0x00, true, 0x0000) := by
  decide
/-- V-DEC-W6: ENC runs in FAILED. -/
theorem test_enc_failed : seen (fun t => (t.pat, t.status)) (onWord 0x1005 { base with mode := .failed }) = some (0xD6, 0) := by
  decide
/-- V-DEC-105 and V-DEC-200. -/
theorem test_dec_105 : (seen id (onWord 0x2069 base)).bind (readBack 2) = some 0x8001FAD6 := by decide
theorem test_dec_200 : (seen id (onWord 0x20C8 base)).bind (readBack 2) = some 0x8001FAFA := by decide
/-- R102: a pattern outside the table is undefined. -/
theorem test_pattern_undefined : decodePattern 0x01 = .undefined := by decide

/-! ## Frames -/

theorem test_bfill : seen (fun t => t.fb[15]) (onWord 0x3000 base) = some 0xFF := by decide
/-- V-DEC-W5. -/
theorem test_bfill_failed : seen (fun t => (t.status, t.fbValid)) (onWord 0x3000 { base with mode := .failed })
    = some (0x0002, false) := by decide
theorem test_bclr : seen (fun t => (t.fb[0], t.fbValid)) (onWord 0x4000 { base with fb := fillFrame }) = some (0, true) := by
  decide
/-- V-FB-4. -/
theorem test_bbar_eight : seen (·.fb) (onWord 0x5800 base)
    = some #v[0x0E, 0xFF, 0xFF, 0xFF, 0, 0, 0, 0, 0, 0, 0, 0, 0, 0, 0, 0] := by decide
/-- V-DEC-W4: the bar index is checked before MODE. -/
theorem test_bbar_nine : seen (·.status) (onWord 0x5900 (sequencing .bar 0 [])) = some 0x0003 := by decide
/-- V-FB-10 and V-FB-8, under layout E. -/
theorem test_bnum_105 : seen (·.fb) (onWord 0x6169 base)
    = some #v[0x03, 0xD6, 0xFA, 0x60, 0, 0, 0, 0, 0, 0, 0, 0, 0, 0, 0, 0] := by decide
theorem test_bnum_7 : seen (·.fb) (onWord 0x6007 base)
    = some #v[0x02, 0x70, 0x00, 0x00, 0, 0, 0, 0, 0, 0, 0, 0, 0, 0, 0, 0] := by decide

/-! ## Bus -/

/-- V-WRF-3: the fifth entry fails. -/
theorem test_wrf_fifth :
    seen (fun t => (t.status, t.fbValid, t.trace.length, t.dram))
      (onWord 0x7000 (withAnswers (okThenErr 4) { base with fb := fillFrame, fbValid := true, dram := [(8, 1), (10, 2)] }))
    = some (0x0041, false, 5, [(0, 0xFF), (2, 0xFF), (4, 0xFF), (6, 0xFF), (10, 2)]) := by decide
/-- V-WRF-5: the last entry fails. -/
theorem test_wrf_last :
    seen (fun t => (t.status, t.trace.length, t.dram.length))
      (onWord 0x7000 (withAnswers (okThenErr 15) { base with fb := fillFrame, fbValid := true })) = some (0x00F1, 16, 15) := by
  decide
/-- V-CRST-3. -/
theorem test_crst_second :
    seen (fun t => (t.status, t.trace, t.dram)) (onWord 0x8000 (withAnswers [.ok, .err] { base with dram := [(4, 9)] }))
    = some (0x0011, [.txn [0xE0, 0x48] .ok, .txn [0xE0, 0x70] .err], []) := by decide
/-- V-CRST-2: the second write is issued after a failed first. -/
theorem test_crst_first : seen (fun t => (t.status, t.trace.length)) (onWord 0x8000 (withAnswers [.err, .ok] base))
    = some (0x0001, 2) := by decide
/-- R57: a reset write with Err. -/
theorem test_rst1 : seen (·.dram) (exec .rst1 (withAnswers [.err] { base with dram := [(4, 9)] })) = some [] := by decide
theorem test_rst2 : seen (·.trace) (exec .rst2 (withAnswers [.ok] base)) = some [.txn [0xE0, 0x70] .ok] := by decide
/-- R55. -/
theorem test_cellwr_ok : seen (·.dram) (exec (.cellwr 5 0xA5) (withAnswers [.ok] { base with dram := [(10, 1), (12, 2)] }))
    = some [(10, 0xA5), (12, 2)] := by decide
theorem test_cellwr_err : seen (·.dram) (exec (.cellwr 5 0xA5) (withAnswers [.err] { base with dram := [(10, 1), (12, 2)] }))
    = some [(12, 2)] := by decide

/-! ## Sequencer -/

/-- V-START-2. -/
theorem test_start_err :
    (seen (fun t => (t.status, t.trace, t)) (onWord 0x9000 { base with initRsp := [.err] })).map
      (fun x => (x.1, x.2.1, readBack 3 x.2.2)) = some (0x0002, [.busInit .err], some 0x00000200) := by decide
/-- V-START-3. -/
theorem test_start_busy : seen (·.status) (onWord 0x9000 (sequencing .reset 0 [])) = some 0x0004 := by decide
/-- V-STEP-5. -/
theorem test_step_last_bar :
    seen (fun t => (t.status, t.trace.getLast?, readBack 3 t)) (onWord 0xA000 (sequencing .bar 7 (List.replicate 16 .ok)))
    = some (0x0200, some (.pause .bar), some 0x00000183) := by decide
theorem test_step_last_bar_row :
    seen (fun t => t.dram.take 5) (onWord 0xA000 (sequencing .bar 7 (List.replicate 16 .ok)))
    = some [(0, 0x0E), (2, 0xFF), (4, 0xFF), (6, 0xFF), (8, 0x00)] := by decide
/-- V-STEP-8: the wrap of the counting loop. -/
theorem test_step_wrap :
    (seen id (onWord 0xA000 { sequencing .rendering 0 (List.replicate 16 .ok) with rval := 199, rbatt := true })).map
      (fun t => (t.status, t.dram.take 4, readBack 4 t))
    = some (0x0300, [(0, 0x03), (2, 0xF6), (4, 0xF6), (6, 0x60)], some 0x00000000) := by decide
/-- V-STEP-0. -/
theorem test_step_direct : seen (·.status) (onWord 0xA000 base) = some 0x0005 := by decide

/-! ## Reset and the read port -/

/-- R201: WRF cut after two transactions with the third in flight. -/
theorem test_reset_in_flight :
    seen (fun t => (t.status, t.fbValid, t.trace.length, t.dram))
      (step { withAnswers (List.replicate 16 .ok) { base with fb := fillFrame, fbValid := true, dram := [(4, 7), (6, 8)] } with
        host := [.commandThenReset 0x7000 2 true] })
    = some (0, false, 3, [(0, 0xFF), (2, 0xFF), (6, 8)]) := by decide
/-- V-RD-6 and V-RD-7 (the valid bit). -/
theorem test_read_fb : (seen id (onWord 0x5800 base)).bind (readBack 17) = some 0x800000FF := by decide
theorem test_read_fb_invalid : readBack 5 base = some 0 := by decide

/-! ## The assembler -/

theorem test_asm_bnum : assembleLine [' ', 'b', 'N', 'u', 'm', ' ', '1', '0', '5', ' ', ',', ' ', '0', 'x', '1']
    = some [0x6169] := by decide
/-- R81: `ENC 300` and `BBAR 9` are refused. -/
theorem test_asm_enc_300 : assembleLine ['E', 'N', 'C', ' ', '3', '0', '0'] = none := by decide
theorem test_asm_bbar_9 : assembleLine ['B', 'B', 'A', 'R', ' ', '9'] = none := by decide
theorem test_asm_show : assembleLine ['S', 'H', 'O', 'W', ' ', '0', 'x', '2', 'A', ',', '1'] = some [0x612A, 0x7000] := by decide

/-! ## Witnesses: states and operands that meet each statement's hypotheses -/

/-- DecodeAfterEncode, at the last legal bar index. -/
theorem witness_decodeAfterEncode : (Instr.bbar 8).wf = true := by decide
/-- EncodeAfterDecode, at the highest BNUM word. -/
theorem witness_encodeAfterDecode : decodeCommand 0x61FF = .ok (.bnum 255 true) := by decide
/-- IllegalWordsWriteStatusOnly, CommandChecksRunInOrder: a word of each kind, at the edges, and a legal one. -/
theorem witness_reservedOp : ReservedOp 0x0000 ∧ ReservedOp 0xB000 ∧ ReservedOp 0xFFFF := by unfold ReservedOp; decide
theorem witness_zeroBitSet : ZeroBitSet 0x1100 ∧ ZeroBitSet 0xA001 := by unfold ZeroBitSet; decide
theorem witness_zeroBitSet_bar : ZeroBitSet 0x5801 ∧ ZeroBitSet 0x6200 := by unfold ZeroBitSet; decide
theorem witness_barIndexTooBig : BarIndexTooBig 0x5900 ∧ ¬ ZeroBitSet 0x5900 := by unfold BarIndexTooBig ZeroBitSet; decide
theorem witness_legalWord : ¬ (ReservedOp 0x6100 ∨ ZeroBitSet 0x6100 ∨ BarIndexTooBig 0x6100) := by
  unfold ReservedOp ZeroBitSet BarIndexTooBig; decide
theorem witness_decodeError : decodeCommand 0x3001 = .error .mustBeZero := by decide
/-- ReportsIllegal, WordRuns, StepRunsDecodedCommand: a state with a word at the head of what the host presents. -/
theorem witness_commandWaiting :
    let s : State := { base with host := [.command 0x1007, .resetN] }
    s.busReq = none ∧ s.host = .command 0x1007 :: [.resetN] ∧ decodeCommand 0x1007 = .ok (.enc 7) := by decide
/-- The illegal words of one opcode, in EncStoresPattern to StartInitialisesBus. -/
theorem witness_illegalOperands :
    (opOf 0x1100 = 1 ∧ aOf 0x1100 ≠ 0) ∧ (opOf 0x2F00 = 2 ∧ aOf 0x2F00 ≠ 0) ∧ opOf 0x3001 = 3 ∧ opOf 0x4100 = 4
      ∧ (opOf 0x5900 = 5 ∧ 8 < aOf 0x5900) ∧ immOf 0x5001 ≠ 0 ∧ (opOf 0x6200 = 6 ∧ 2 ≤ aOf 0x6200) ∧ opOf 0x7001 = 7
      ∧ opOf 0x8001 = 8 ∧ opOf 0x9001 = 9 := by decide
/-- PayloadShapes: a payload that is none of the three. -/
theorem witness_foreignPayload :
    ([0xE0, 0x49] : List Byte) ≠ [0xE0, 0x48] ∧ ([0xE0, 0x49] : List Byte) ≠ [0xE0, 0x70]
      ∧ ∀ (c : CellIdx) (d : Byte), ([0xE0, 0x49] : List Byte) ≠ [0xE0, BitVec.ofNat 8 (2 * c.val), d] := by simp
/-- StepRunsRequestedPayload, PortOk in StepAlwaysGoesOn. -/
theorem witness_requestWaiting :
    let q : BusRequest := ⟨0x38, [0xE0, 0x1E, 0xFF], 0⟩
    let s : State := { base with busReq := some q, host := [.command 0x1007] }
    s.busReq = some q ∧ q.device = 0x38 ∧ decodePayload q.payload = .ok (.cellwr 15 0xFF) ∧ s.host.head? ≠ some .resetN
      ∧ s.PortOk := by decide
/-- ForeignRequestIsRefused: another device, and a payload that is not the block's. -/
theorem witness_foreignRequest :
    let q : BusRequest := ⟨0x39, [0xE0, 0x48], 0⟩
    let r : BusRequest := ⟨0x38, [0xE0, 0x20, 0], 0⟩
    q.device ≠ 0x38 ∧ decodePayload r.payload = .error .notAPayload ∧ base.host.head? ≠ some .resetN := by decide
/-- IdleBlockWaits. -/
theorem witness_idle : base.busReq = none ∧ base.host = [] := by decide
/-- PlacedWordRunsNext: a command, and a payload of each length. -/
theorem witness_placed :
    decodeTableWord 16 0xA000 = some .step ∧ decodeTableWord 16 0xE070 = some .rst2
      ∧ decodeTableWord 24 0xE01EFF = some (.cellwr 15 0xFF) := by decide
/-- DigitPatternsInvert: the last digit, and a pattern outside the table. -/
theorem witness_digits : (9 : Byte).toNat ≤ 9 ∧ (0x01 : Byte) ≠ 0x00 ∧ ∀ d : Byte, d.toNat ≤ 9 → (0x01 : Byte) ≠ encodeDigit d := by
  decide
/-- DecomposeByRange, ZeroSuppressionAndHundredsFlag, TripleReadsBack: the edges of the ranges. -/
theorem witness_ranges :
    (9 : Byte).toNat < 10 ∧ (10 ≤ (10 : Byte).toNat ∧ (99 : Byte).toNat < 100) ∧ 100 ≤ (100 : Byte).toNat
      ∧ (155 : Byte).toNat ≤ 155 ∧ (199 : Byte).toNat < 200 ∧ 200 ≤ (200 : Byte).toNat := by decide
/-- The build commands, CRST, HandAndSequencerSendTheSame: MODE = DIRECT. -/
theorem witness_direct : base.mode = .direct := by decide
/-- BbarBuildsRow, HandAndSequencerSendTheSame: the last legal index, and the last one before it. -/
theorem witness_barIndex : (8 : BitVec 4).toNat ≤ 8 ∧ (7 : BitVec 4).toNat < 8 := by decide
/-- NeedsDirect, ModeTableRefuses, the modes of CommandChecksRunInOrder. -/
theorem witness_modes :
    (sequencing .bar 3 []).mode = .sequencing ∧ ({ base with mode := .failed } : State).mode = .failed
      ∧ base.fbValid = false ∧ (Instr.bbar 8).wf = true ∧ (Instr.bbar 8).isPayload = false := by decide
/-- CellWriteTransaction: both results. -/
theorem witness_answer : (withAnswers [.ok] base).answerAt 0 = .ok ∧ (withAnswers [.err] base).answerAt 0 = .err := by decide
/-- TransactionsTakeAnswersInOrder: CRST is none of START, and its two transactions have the two queued answers. -/
theorem witness_answersInOrder :
    Instr.crst ≠ .start
      ∧ seen (fun t => txnsOf t.trace) (exec .crst (withAnswers [.err, .ok, .err] base))
          = some [([0xE0, 0x48], .err), ([0xE0, 0x70], .ok)]
      ∧ seen (fun t => t.busRsp) (exec .crst (withAnswers [.err, .ok, .err] base)) = some [.err] := by decide
/-- CellWriteTwiceIsOnce. -/
theorem witness_writeTwice :
    ∃ t u, (withAnswers [.ok, .ok] base).answerAt 0 = .ok ∧ (withAnswers [.ok, .ok] base).answerAt 1 = .ok
      ∧ exec (.cellwr 5 0xA5) (withAnswers [.ok, .ok] base) = .next t ∧ exec (.cellwr 5 0xA5) t = .next u :=
  ⟨_, _, by decide, by decide, rfl, rfl⟩
/-- WrfSendsHeldFrame: a frame held in DIRECT, all answers Ok. -/
theorem witness_wrfOk :
    let s := withAnswers (List.replicate 16 .ok) { base with fb := fillFrame, fbValid := true }
    s.mode = .direct ∧ s.fbValid = true ∧ AllOk s 16 := by unfold AllOk; decide
/-- WrfSendsHeldFrame: the first and the last transaction fail first. -/
theorem witness_wrfErr :
    FirstErr (withAnswers (okThenErr 0) { base with fbValid := true }) 0
      ∧ FirstErr (withAnswers (okThenErr 15) { base with fbValid := true }) 15 := by unfold FirstErr AllOk; decide
/-- WrfSendsHeldFrame (no frame held), SecondWrfReportsNoFrame. -/
theorem witness_wrfRan : base.mode = .direct ∧ base.fbValid = false ∧ ∃ t, exec .wrf base = .next t :=
  ⟨by decide, by decide, _, rfl⟩
/-- CellWritesRunInOrder, CommandsOverwriteStatus. -/
theorem witness_command : Instr.isPayload .wrf = false ∧ ∃ t, exec .wrf { base with fbValid := true } = .next t :=
  ⟨by decide, _, rfl⟩
/-- StartInitialisesBus: both answers. -/
theorem witness_start :
    ({ base with initRsp := [.ok] } : State).initAnswer = .ok ∧ ({ base with initRsp := [.err] } : State).initAnswer = .err
      ∧ base.mode = .direct := by decide
/-- The transitions: each phase in SEQUENCING, with the first and the last bar index of each clause. -/
theorem witness_phases :
    (∀ ph, (sequencing ph 0 []).mode = .sequencing ∧ (sequencing ph 0 []).phase = ph)
      ∧ (sequencing .bar 0 []).bark = BitVec.ofNat 4 (0 : Fin 7).val ∧ (sequencing .bar 6 []).bark = BitVec.ofNat 4 (6 : Fin 7).val
      ∧ (sequencing .bar 7 []).bark = 7 ∧ (sequencing .bar 8 []).bark = 8 :=
  ⟨fun _ => ⟨rfl, rfl⟩, by decide⟩
/-- The transitions' frames: all answers Ok, and a first Err at either end. -/
theorem witness_transitionAnswers :
    AllOk (sequencing .rendering 0 (List.replicate 16 .ok)) 16 ∧ FirstErr (sequencing .reset 0 (okThenErr 0)) 0
      ∧ FirstErr (sequencing .bar 7 (okThenErr 15)) 15 := by unfold FirstErr AllOk; decide
/-- FailedWriteDoesNotStopSequencer: the same STEP with a good and a failing bus. -/
theorem witness_twoBuses :
    ∃ t t', exec .step (sequencing .rendering 0 (List.replicate 16 .ok)) = .next t
      ∧ exec .step { sequencing .rendering 0 (List.replicate 16 .ok) with busRsp := okThenErr 4, draws := 0 } = .next t' :=
  ⟨_, _, rfl, rfl⟩
/-- n queued Ok answers are n Ok answers. -/
theorem allOk_replicate (n : Nat) (s : State) : AllOk (withAnswers (List.replicate n .ok) s) n := fun k hk => by
  simp [State.answerAt, withAnswers, hk]
/-- StartupReachesRendering, and its clause of Ok answers. -/
theorem witness_startup :
    (sequencing .uninit 0 (List.replicate 178 .ok)).mode = .sequencing
      ∧ (sequencing .uninit 0 (List.replicate 178 .ok)).phase = .uninit
      ∧ AllOk (sequencing .uninit 0 (List.replicate 178 .ok)) 178 :=
  ⟨rfl, rfl, allOk_replicate 178 (sequencing .uninit 0 [])⟩
/-- RenderStateRepeats: the last value of the loop. -/
theorem witness_rendering :
    let s : State := { sequencing .rendering 0 [] with rval := 199 }
    s.mode = .sequencing ∧ s.phase = .rendering ∧ s.rval.toNat < 200 := by decide
/-- HandAndSequencerSendTheSame: both ways run. -/
theorem witness_bothWays :
    ∃ t u, execBoth .bfill .wrf base = .next t
      ∧ exec .step { ({ base with phase := .reset } : State) with mode := .sequencing } = .next u := ⟨_, _, rfl, rfl⟩
/-- OnlyStartAndResetMoveMode: START moves MODE, and a reset returns it. -/
theorem witness_modeMoves :
    seen (fun t => decide (t.mode ≠ .direct)) (exec .start { base with initRsp := [.ok] }) = some true
      ∧ seen (·.mode) (step { sequencing .bar 3 [] with host := [.resetN] }) = some .direct := by decide
/-- RegistersHaveTheirWriters: STEP is none of the others. -/
theorem witness_otherInstruction :
    Instr.wrf ≠ .step ∧ (∀ d, Instr.wrf ≠ .enc d) ∧ (∀ v, Instr.wrf ≠ .dec v) ∧ Instr.wrf ≠ .bfill ∧ Instr.wrf ≠ .bclr
      ∧ (∀ k, Instr.wrf ≠ .bbar k) ∧ (∀ v b, Instr.wrf ≠ .bnum v b) ∧ Instr.isPayload .rst1 = true
      ∧ ∃ t, exec .wrf base = .next t :=
  ⟨by decide, by simp, by simp, by decide, by decide, by simp, by simp, by decide, _, rfl⟩
/-- DisplayRamIsFoldOfTrace: a step from each clause. -/
theorem witness_fold :
    (∃ t, step { base with host := [.controllerPowerOn] } = .next t) ∧ ∃ t, step { base with host := [.command 0x8000] } = .next t :=
  ⟨⟨_, rfl⟩, _, rfl⟩
/-- StepKeepsDisplayRamForm: a display RAM with its first and last cell Known. -/
theorem witness_dramOk :
    ({ base with dram := [(0, 1), (30, 2)] } : State).DramOk ∧ ∃ t, step { base with dram := [(0, 1), (30, 2)] } = .next t :=
  ⟨by decide, _, rfl⟩
/-- StepKeepsInvariant: a state deep in the animation. -/
theorem witness_inv : (sequencing .bar 8 []).Inv ∧ ∃ t, step (sequencing .bar 8 []) = .next t :=
  ⟨⟨by decide, by decide, by decide, by decide, by simp [State.TraceOk, sequencing, base, State.reset], by decide⟩, _, rfl⟩
/-- ResetGivesResetValues. -/
theorem witness_reset :
    ({ base with host := [.resetN] } : State).busReq = none ∧ ({ base with host := [.resetN] } : State).host = [.resetN] := by decide
/-- ResetDuringCommand: CRST, cut with its first write in flight; and a request in flight at RESET_N. -/
theorem witness_resetDuring :
    let s : State := { base with busRsp := [.ok, .ok], host := [.commandThenReset 0x8000 0 true] }
    ∃ u, s.busReq = none ∧ s.host = .commandThenReset 0x8000 0 true :: [] ∧ decodeCommand 0x8000 = .ok .crst
      ∧ exec .crst { s with host := [] } = .next u
      ∧ u.trace = s.trace ++ [.txn [0xE0, 0x48] .ok, .txn [0xE0, 0x70] .ok]
      ∧ ([.txn [0xE0, 0x48] .ok, .txn [0xE0, 0x70] .ok] : List Event)[0]? ≠ some (.busInit .ok) :=
  ⟨_, rfl, rfl, by decide, rfl, rfl, by decide⟩
theorem witness_resetInFlight :
    let s : State := { base with busReq := some ⟨0x38, [0xE0, 0x48], 0⟩, host := [.resetN] }
    s.busReq = some ⟨0x38, [0xE0, 0x48], 0⟩ ∧ s.host = .resetN :: [] := by decide
/-- ReadPortMap: a read at the head, and the edges of the reserved numbers. -/
theorem witness_read :
    base.busReq = none ∧ ({ base with host := [.read 31] } : State).host = [.read 31] ∧ 6 ≤ (6 : BitVec 5).toNat
      ∧ (15 : BitVec 5).toNat ≤ 15 := by decide
/-- ConfigurationIsChecked: layout E is accepted, and V-FB-14's is refused. -/
theorem witness_configure :
    seen (fun _ => ()) (configure {} (Vector.replicate 7 clearFrame) false 0 0 0 0 base) = some ()
      ∧ seen (fun _ => ()) (configure { hundMask := 0 } (Vector.replicate 7 clearFrame) false 0 0 0 0 base) = none := by decide

end Sys2Proof.Tests
end

/-!
SUPPORT. One equation for each thing that can stand on the ports, and `Stepped`: all that one step can do.
-/
namespace Sys2Proof.Machine

/-! ## What one step does, by what stands on the ports -/

/-- RESET_N acts at once, whatever stands on BUS_REQ (R201). -/
theorem step_resetN {s : State} {rest : List PortEvent} (hh : s.host = .resetN :: rest) :
    step s = .next (blockReset { s with host := rest }) := by
  unfold step stepPorts
  rw [hh]
  cases hq : s.busReq with
  | none => simp [serveEvent, ← hq]
  | some q => simp [← hq]

/-- A request on BUS_REQ is served before anything the host presents but RESET_N (R35, R53). -/
theorem step_request {s : State} {q : BusRequest} (hq : s.busReq = some q) (hh : s.host.head? ≠ some .resetN) :
    step s = serveRequest q s := by
  unfold step stepPorts
  split
  case h_1 hr => simp [hr] at hh
  case h_2 q' hq' _ => rw [Option.some.inj (hq.symm.trans hq')]
  case h_3 hn _ => simp [hq] at hn
  case h_4 hn _ => simp [hq] at hn

/-- With BUS_REQ free, the host's next event is served. -/
theorem step_event {s : State} {e : PortEvent} {rest : List PortEvent} (hb : s.busReq = none) (hh : s.host = e :: rest) :
    step s = serveEvent e { s with host := rest } := by
  simp [step, stepPorts, hb, hh]

/-- With BUS_REQ free and nothing presented, the block waits (R186, R202). -/
theorem step_idle {s : State} (hb : s.busReq = none) (hh : s.host = []) : step s = .next s := by
  simp [step, stepPorts, hb, hh]

theorem runCommand_of_decode {w : Word} {i : Instr} (hd : decodeCommand w = .ok i) (s : State) :
    runCommand w s = exec i s := by
  simp [runCommand, hd]

/-- A word that ran is a legal one whose instruction ran, or an illegal one that was reported (R73 to R75). -/
theorem runCommand_cases {w : Word} {s t : State} (h : runCommand w s = .next t) :
    (∃ i, decodeCommand w = .ok i ∧ exec i s = .next t) ∨ t = { s with status := statusWord .illegalCommand 0 .none } := by
  unfold runCommand at h
  split at h
  case h_1 i hd => exact .inl ⟨i, hd, h⟩
  case h_2 => cases h; exact .inr rfl

theorem serveRequest_of_decode {q : BusRequest} {i : Instr} (hq : q.device = devAddr) (hd : decodePayload q.payload = .ok i)
    (s : State) : serveRequest q s = exec i { s with busReq := none } := by
  simp [serveRequest, hq, hd]

/-- A request that was served is the block's own, and its instruction ran (R67, R80). -/
theorem serveRequest_cases {q : BusRequest} {s t : State} (h : serveRequest q s = .next t) :
    ∃ i, decodePayload q.payload = .ok i ∧ exec i { s with busReq := none } = .next t := by
  unfold serveRequest at h
  split at h
  · split at h
    case h_1 i hd => exact ⟨i, hd, h⟩
    case h_2 => cases h
  · cases h

/-- What one step can do. -/
inductive Stepped (s : State) : State → Prop
  | waited : Stepped s s
  | answered {q i t} (hq : s.busReq = some q) (hd : decodePayload q.payload = .ok i)
      (ht : exec i { s with busReq := none } = .next t) : Stepped s t
  | ran {w rest t} (hb : s.busReq = none) (hh : s.host = .command w :: rest)
      (ht : runCommand w { s with host := rest } = .next t) : Stepped s t
  | read {rn rest} (hb : s.busReq = none) (hh : s.host = .read rn :: rest) : Stepped s (readRegister rn { s with host := rest })
  | reset {rest} (hh : s.host = .resetN :: rest) : Stepped s (blockReset { s with host := rest })
  | cut {w n inFlight rest t} (hb : s.busReq = none) (hh : s.host = .commandThenReset w n inFlight :: rest)
      (ht : runCommand w { s with host := rest } = .next t) : Stepped s (resetDuring { s with host := rest } t n inFlight)
  | poweredOn {rest} (hb : s.busReq = none) (hh : s.host = .controllerPowerOn :: rest) :
      Stepped s (powerOnController { s with host := rest })

theorem serveEvent_stepped {s t : State} {e : PortEvent} {rest : List PortEvent} (hb : s.busReq = none)
    (hh : s.host = e :: rest) (h : serveEvent e { s with host := rest } = .next t) : Stepped s t := by
  cases e with
  | command w => exact .ran hb hh h
  | read rn => cases h; exact .read hb hh
  | resetN => cases h; exact .reset hh
  | controllerPowerOn => cases h; exact .poweredOn hb hh
  | commandThenReset w n inFlight =>
    simp only [serveEvent] at h
    split at h
    case h_1 u hu => cases h; exact .cut hb hh hu
    all_goals cases h

theorem step_stepped {s t : State} (h : step s = .next t) : Stepped s t := by
  cases hb : s.busReq with
  | none =>
    cases hh : s.host with
    | nil => rw [step_idle hb hh] at h; cases h; exact .waited
    | cons e rest => rw [step_event hb hh] at h; exact serveEvent_stepped hb hh h
  | some q =>
    by_cases hr : s.host.head? = some .resetN
    · obtain ⟨rest, hh⟩ := List.head?_eq_some_iff.1 hr
      rw [step_resetN hh] at h
      cases h
      exact .reset hh
    · rw [step_request hb hr] at h
      obtain ⟨i, hd, ht⟩ := serveRequest_cases h
      exact .answered hb hd ht

end Sys2Proof.Machine

/-!
SUPPORT. `Did`: all that one instruction can do, with its transactions as a `BusRun`. The claims about every instruction are read
off it.
-/
namespace Sys2Proof.Machine

open Sys2Proof.Claims

/-! ## The bus side of a command -/

theorem txnsOf_append (es es' : List Event) : txnsOf (es ++ es') = txnsOf es ++ txnsOf es' := List.filterMap_append

/-- `s` with its registers and the bus side of `b`: the port, the display RAM, the trace and the answers of the transport. -/
def State.withBus (s b : State) : State :=
  { s with busReq := b.busReq, dram := b.dram, trace := b.trace, busRsp := b.busRsp, draws := b.draws }

/-- What the trace may hold: transactions with the block's payloads (R79), and pause requests that name a delay (R153). The
statement of `State.TraceOk` for one event. -/
def Event.Ok (e : Event) : Prop :=
  (∀ p r, e = .txn p r → isBlockPayload p = true) ∧ e ≠ .pause .none

theorem traceOk_iff (s : State) : s.TraceOk ↔ ∀ e ∈ s.trace, e.Ok := by
  refine forall₂_congr fun e _ => ?_
  cases e <;> simp [Event.Ok]

/-- On the bus side, `t` is `s` after the events `es`, transactions and pause requests: the display RAM is their fold (R63), and
the transactions have had the answers of the transport one each, in order (R52). -/
structure BusRun (s t : State) (es : List Event) : Prop where
  port : t.busReq = none ∨ t.busReq = s.busReq
  dram : t.dram = es.foldl Event.deliver s.dram
  trace : t.trace = s.trace ++ es
  eventsOk : ∀ e ∈ es, e.Ok
  answered : ∀ k p r, (txnsOf es)[k]? = some (p, r) → r = s.answerAt k
  left : ∀ k, t.answerAt k = s.answerAt ((txnsOf es).length + k)

namespace BusRun

/-- A run speaks of the bus side only: registers may be written after it. -/
theorem of_withBus {s t b : State} {es : List Event} (h : BusRun s b es) (ht : t.withBus b = t) : BusRun s t es :=
  ht ▸ ⟨h.port, h.dram, h.trace, h.eventsOk, h.answered, h.left⟩

theorem refl (s : State) : BusRun s s [] where
  port := .inr rfl
  dram := rfl
  trace := by simp
  eventsOk := by simp
  answered := by simp [txnsOf]
  left := by simp [txnsOf]

theorem trans {s t u : State} {es es' : List Event} (h : BusRun s t es) (h' : BusRun t u es') : BusRun s u (es ++ es') where
  port := h'.port.elim .inl fun hu => h.port.imp hu.trans hu.trans
  dram := by rw [h'.dram, h.dram, List.foldl_append]
  trace := by rw [h'.trace, h.trace, List.append_assoc]
  eventsOk e he := (List.mem_append.1 he).elim (h.eventsOk e) (h'.eventsOk e)
  answered k p r hk := by
    rw [txnsOf_append, List.getElem?_append] at hk
    split at hk
    · exact h.answered k p r hk
    · rw [h'.answered _ p r hk, h.left]
      congr 1
      omega
  left k := by rw [h'.left, h.left, txnsOf_append, List.length_append, Nat.add_assoc]

end BusRun

theorem afterTxn_busRun {p : List Byte} (hp : isBlockPayload p = true) (s : State) :
    BusRun s (afterTxn p s) [.txn p (s.answerAt 0)] where
  port := .inl rfl
  dram := rfl
  trace := rfl
  eventsOk := by simp [Event.Ok, hp]
  answered k p' r hk := by
    cases k <;> simp_all [txnsOf]
  left k := by simp [afterTxn_answerAt, txnsOf, Nat.add_comm]

theorem isBlockPayload_cellBytes (c : CellIdx) (d : Byte) : isBlockPayload (cellBytes c d) = true := by
  simp [isBlockPayload, Except.isOk, Except.toBool]

/-- A frame write is a run of its transactions, and leaves the registers (R128). -/
theorem writeCells_busRun (f : Frame) (cs : List CellIdx) (s : State) :
    ∃ res b es, BusRun s b es ∧ writeCells f cs s = (res, s.withBus b) := by
  induction cs generalizing s with
  | nil => exact ⟨_, s, [], .refl s, rfl⟩
  | cons c cs ih =>
    have h1 := afterTxn_busRun (isBlockPayload_cellBytes c f[c]) s
    rw [writeCells, busWrite_eq]
    cases s.answerAt 0 with
    | ok =>
      obtain ⟨res, b, es, hb, heq⟩ := ih (afterTxn (cellBytes c f[c]) s)
      exact ⟨res, b, _, h1.trans hb, heq⟩
    | err => exact ⟨_, _, _, h1, rfl⟩

theorem writeFrame_busRun (s : State) :
    ∃ res b es, BusRun s b es ∧ writeFrame s = (res, { s.withBus b with fbValid := false }) := by
  obtain ⟨res, b, es, hb, heq⟩ := writeCells_busRun s.fb allCells s
  exact ⟨res, b, es, hb, by rw [writeFrame, heq]⟩

theorem sendFrame_busRun (f : Frame) (s : State) :
    ∃ res b es, BusRun s b es ∧ sendFrame f s = (res, { s.withBus b with fb := f, fbValid := false }) := by
  obtain ⟨res, b, es, hb, heq⟩ := writeFrame_busRun (loadFrame f s)
  exact ⟨res, b, es, ⟨hb.port, hb.dram, hb.trace, hb.eventsOk, hb.answered, hb.left⟩, heq⟩

/-- The reset pair is a run of its two transactions, and leaves the registers (R129). -/
theorem resetController_busRun (s : State) :
    ∃ res b es, BusRun s b es ∧ resetController s = (res, s.withBus b) := by
  have h1 := afterTxn_busRun (p := rst1Bytes) rfl s
  have h2 := afterTxn_busRun (p := rst2Bytes) rfl (afterTxn rst1Bytes s)
  refine ⟨(resetController s).1, _, _, h1.trans h2, Prod.ext rfl ?_⟩
  simp only [resetController, busWrite_eq]
  split <;> rfl

theorem requestPause_busRun (k : PauseKind) (s : State) :
    ∃ b es, BusRun s b es ∧ requestPause k s = s.withBus b := by
  refine ⟨requestPause k s, if k = .none then [] else [.pause k], ?_, by rw [requestPause_eq]; rfl⟩
  rw [requestPause_eq]
  cases k <;> exact ⟨.inr rfl, rfl, rfl, by simp [Event.Ok], by simp [txnsOf], by simp [txnsOf, State.answerAt]⟩

/-! ## What an instruction can do -/

/-- The word is a report of STATUS: FAIL_IDX is 0 unless a bus write failed (R25). -/
def Reported (w : BitVec 16) : Prop :=
  ∃ c i k, w = statusWord c i k ∧ (c ≠ .busWriteError → i = 0)

theorem reported_of_failIdx_zero {c : Code} (k : PauseKind) : Reported (statusWord c 0 k) :=
  ⟨c, 0, k, rfl, fun _ => rfl⟩

theorem reportWrite_reported (res : WriteResult) (k : PauseKind) (s : State) :
    ∃ w, Reported w ∧ reportWrite res k s = { s with status := w } := by
  obtain ⟨w, heq, ⟨-, rfl⟩ | ⟨i, -, rfl⟩⟩ := reportWrite_status res k s
  · exact ⟨_, reported_of_failIdx_zero k, heq⟩
  · exact ⟨_, ⟨.busWriteError, i, k, rfl, fun h => absurd rfl h⟩, heq⟩

/-- The sequencer's registers after the transition from PHASE and BARK (R154 to R160). -/
def advance (s : State) : State :=
  match s.phase with
  | .uninit => { s with phase := .reset }
  | .reset => { s with phase := .fillTest }
  | .fillTest => { s with phase := .bar, bark := 0 }
  | .bar => if s.bark.toNat < 8 then { s with bark := s.bark + 1 } else { s with phase := .cleared, bark := 0 }
  | .cleared => { s with rval := 0, rbatt := s.cfg.battInit, phase := .rendering }
  | .rendering => { s with rbatt := !s.rbatt, rval := nextValue s.rval }

theorem advance_uninit {s : State} (hp : s.phase = .uninit) : advance s = { s with phase := .reset } := by
  simp [advance, hp]

theorem advance_reset {s : State} (hp : s.phase = .reset) : advance s = { s with phase := .fillTest } := by
  simp [advance, hp]

theorem advance_fillTest {s : State} (hp : s.phase = .fillTest) : advance s = { s with phase := .bar, bark := 0 } := by
  simp [advance, hp]

theorem advance_nextBar {s : State} (hp : s.phase = .bar) (hk : s.bark.toNat < 8) :
    advance s = { s with bark := s.bark + 1 } := by
  simp [advance, hp, hk]

theorem advance_lastBar {s : State} (hp : s.phase = .bar) (hk : ¬ s.bark.toNat < 8) :
    advance s = { s with phase := .cleared, bark := 0 } := by
  simp [advance, hp, hk]

theorem advance_cleared {s : State} (hp : s.phase = .cleared) :
    advance s = { s with rval := 0, rbatt := s.cfg.battInit, phase := .rendering } := by
  simp [advance, hp]

theorem advance_rendering {s : State} (hp : s.phase = .rendering) :
    advance s = { s with rbatt := !s.rbatt, rval := nextValue s.rval } := by
  simp [advance, hp]

/-- The frame-build commands (R120). -/
def BuildsFrame (i : Instr) : Prop :=
  i = .bfill ∨ i = .bclr ∨ (∃ k, i = .bbar k) ∨ ∃ v b, i = .bnum v b

/-- What an instruction can do from `s`, with the events it emits: the registers it writes, in terms of the bus side `b` its
transactions lead to. -/
inductive Did (s : State) : Instr → List Event → State → Prop
  | encoded (d : Byte) : Did s (.enc d) [] { s with pat := encodeDigit d, patValid := true, status := 0 }
  | decomposed (v : Byte) : Did s (.dec v) []
      { s with
        hund := (decompose v).hund, tens := (decompose v).tens, units := (decompose v).units, decValid := true, status := 0 }
  | refused {i w} (hi : i.isPayload = false) (hw : Reported w) : Did s i [] { s with status := w }
  | built {i} (f : Frame) (hi : BuildsFrame i) (hm : s.mode = .direct) :
      Did s i [] { s with fb := f, fbValid := true, status := 0 }
  | sentHeld {b es w} (hb : BusRun s b es) (hw : Reported w) :
      Did s .wrf es { s.withBus b with fbValid := false, status := w }
  | sentResets {b es w} (hb : BusRun s b es) (hw : Reported w) : Did s .crst es { s.withBus b with status := w }
  | started {m w} (r : Config.BusResult) (hm : s.mode = .direct) (hm' : m ≠ .direct) (hw : Reported w) :
      Did s .start [.busInit r] { s.takeInit with trace := s.trace ++ [.busInit r], mode := m, status := w }
  | moved {b es f v w} (hm : s.mode = .sequencing) (hb : BusRun s b es) (hw : Reported w)
      (hv : v = false ∨ (s.phase = .uninit ∨ s.phase = .cleared) ∧ v = s.fbValid) :
      Did s .step es { (advance s).withBus b with fb := f, fbValid := v, status := w }
  | transacted {i b es} (hi : i.isPayload = true) (hb : BusRun s b es) : Did s i es (s.withBus b)

theorem unlessRefused_did {i : Instr} {code : Option Code} {run : State → State} {s : State} (hi : i.isPayload = false)
    (hrun : code = none → ∃ es, Did s i es (run s)) : ∃ es, Did s i es (unlessRefused code run s) := by
  obtain ⟨hc, heq⟩ | ⟨c, -, heq⟩ := unlessRefused_cases code run s <;> rw [heq]
  · exact hrun hc
  · exact ⟨_, .refused hi (reported_of_failIdx_zero _)⟩

/-- A command that ends in a report of its bus writes writes STATUS with some report. -/
theorem reportWrite_did {i : Instr} {s u : State} {es : List Event} (res : WriteResult) (k : PauseKind)
    (h : ∀ w, Reported w → Did s i es { u with status := w }) : Did s i es (reportWrite res k u) := by
  obtain ⟨w, hw, hres⟩ := reportWrite_reported res k u
  rw [hres]
  exact h w hw

theorem directCode_eq_none {m : Mode} : directCode m = none ↔ m = .direct := by cases m <;> simp [directCode]

theorem stepCode_eq_none {m : Mode} : stepCode m = none ↔ m = .sequencing := by cases m <;> simp [stepCode]

theorem buildFrame_did {i : Instr} (f : Frame) (s : State) (hi : BuildsFrame i) : ∃ es, Did s i es (buildFrame f s) := by
  refine unlessRefused_did ?_ fun hc => ⟨_, .built f hi (directCode_eq_none.1 hc)⟩
  obtain rfl | rfl | ⟨k, rfl⟩ | ⟨v, b, rfl⟩ := hi <;> rfl

theorem writeHeldFrame_did (s : State) : ∃ es, Did s .wrf es (writeHeldFrame s) := by
  unfold writeHeldFrame
  split
  · obtain ⟨res, b, es, hb, heq⟩ := writeFrame_busRun s
    rw [heq]
    exact ⟨es, reportWrite_did _ _ fun w hw => .sentHeld (b := b) hb hw⟩
  · exact ⟨_, .refused rfl (reported_of_failIdx_zero _)⟩

theorem writeReset_did (s : State) : ∃ es, Did s .crst es (writeReset s) := by
  obtain ⟨res, b, es, hb, heq⟩ := resetController_busRun s
  rw [writeReset, heq]
  exact ⟨es, reportWrite_did _ _ fun w hw => .sentResets hb hw⟩

theorem startBus_did (s : State) (hm : s.mode = .direct) : ∃ es, Did s .start es (startBus s) := by
  rw [startBus, busInit_eq]
  cases s.initAnswer with
  | ok => exact ⟨_, .started (m := .sequencing) .ok hm (by simp) (reported_of_failIdx_zero (c := .ok) .none)⟩
  | err => exact ⟨_, .started (m := .failed) .err hm (by simp) (reported_of_failIdx_zero (c := .busInitError) .none)⟩

/-- A transition that has written the sequencer's registers asks for its pause and reports (R152, R153). -/
theorem finishTransition_did {s u b : State} {es : List Event} {f : Frame} {v : Bool} (res : WriteResult) (kind : PauseKind)
    (hm : s.mode = .sequencing) (hb : BusRun s b es) (hu : u = { (advance s).withBus b with fb := f, fbValid := v })
    (hv : v = false ∨ (s.phase = .uninit ∨ s.phase = .cleared) ∧ v = s.fbValid) :
    ∃ es', Did s .step es' (finishTransition res kind u) := by
  obtain ⟨b', es', hb', heq⟩ := requestPause_busRun kind u
  have hrun : BusRun s b' (es ++ es') := (hb.of_withBus (by rw [hu]; rfl)).trans hb'
  rw [finishTransition, heq, hu]
  exact ⟨_, reportWrite_did _ _ fun w hw => .moved (b := b') hm hrun hw hv⟩

/-- A transition that builds and sends a frame (R152). -/
theorem finishTransition_sent_did (f : Frame) (s : State) (kind : PauseKind) (u : State → State) (hm : s.mode = .sequencing)
    (hu : ∀ b, u { s.withBus b with fb := f, fbValid := false } = { (advance s).withBus b with fb := f, fbValid := false }) :
    ∃ es, Did s .step es (finishTransition (sendFrame f s).1 kind (u (sendFrame f s).2)) := by
  obtain ⟨res, b, es, hb, heq⟩ := sendFrame_busRun f s
  rw [heq]
  exact finishTransition_did res kind hm hb (hu b) (.inl rfl)

theorem transition_did (s : State) (hm : s.mode = .sequencing) : ∃ es, Did s .step es (transition s) := by
  unfold transition
  split
  case h_1 hp =>
    obtain ⟨res, b, es, hb, heq⟩ := resetController_busRun s
    rw [toReset, heq]
    exact finishTransition_did (f := s.fb) (v := s.fbValid) _ _ hm hb (by rw [advance_uninit hp]; rfl) (.inr ⟨.inl hp, rfl⟩)
  case h_2 hp =>
    exact finishTransition_sent_did fillFrame s .fill (fun t => { t with phase := .fillTest }) hm
      fun b => by rw [advance_reset hp]; rfl
  case h_3 hp =>
    exact finishTransition_sent_did (barRow s.cfg 0) s .bar (fun t => { t with phase := .bar, bark := 0 }) hm
      fun b => by rw [advance_fillTest hp]; rfl
  case h_4 hp =>
    split
    case isTrue hk =>
      exact finishTransition_sent_did (barRow s.cfg (s.bark.toNat + 1)) s .bar (fun t => { t with bark := s.bark + 1 }) hm
        fun b => by rw [advance_nextBar hp hk]; rfl
    case isFalse hk =>
      exact finishTransition_sent_did clearFrame s .none (fun t => { t with phase := .cleared, bark := 0 }) hm
        fun b => by rw [advance_lastBar hp hk]; rfl
  case h_5 hp =>
    exact finishTransition_did (f := s.fb) (v := s.fbValid) _ _ hm (.refl s) (by rw [advance_cleared hp]; rfl)
      (.inr ⟨.inr hp, rfl⟩)
  case h_6 hp =>
    exact finishTransition_sent_did (numFrame s.cfg.layout s.rval s.rbatt) s .render
      (fun t => { t with rbatt := !s.rbatt, rval := nextValue s.rval }) hm fun b => by rw [advance_rendering hp]; rfl

theorem busWrite_did {i : Instr} {p : List Byte} (s : State) (hi : i.isPayload = true) (hp : isBlockPayload p = true) :
    ∃ es, Did s i es (busWrite p s).2 := by
  rw [busWrite_eq]
  exact ⟨_, .transacted hi (afterTxn_busRun hp s)⟩

/-- Every instruction answers a next state, and does one of the things above. -/
theorem exec_did (i : Instr) (s : State) : ∃ es t, exec i s = .next t ∧ Did s i es t := by
  suffices h : ∃ t, exec i s = .next t ∧ ∃ es, Did s i es t by
    obtain ⟨t, ht, es, hd⟩ := h
    exact ⟨es, t, ht, hd⟩
  cases i with
  | enc d => exact ⟨_, rfl, _, .encoded d⟩
  | dec v => exact ⟨_, rfl, _, .decomposed v⟩
  | bfill => exact ⟨_, rfl, buildFrame_did _ s (.inl rfl)⟩
  | bclr => exact ⟨_, rfl, buildFrame_did _ s (.inr (.inl rfl))⟩
  | bbar k =>
    simp only [exec, execBbar]
    split
    · exact ⟨_, rfl, buildFrame_did _ s (.inr (.inr (.inl ⟨k, rfl⟩)))⟩
    · exact ⟨_, rfl, _, .refused rfl (reported_of_failIdx_zero _)⟩
  | bnum v b => exact ⟨_, rfl, buildFrame_did _ s (.inr (.inr (.inr ⟨v, b, rfl⟩)))⟩
  | wrf => exact ⟨_, rfl, unlessRefused_did rfl fun _ => writeHeldFrame_did s⟩
  | crst => exact ⟨_, rfl, unlessRefused_did rfl fun _ => writeReset_did s⟩
  | start => exact ⟨_, rfl, unlessRefused_did rfl fun hc => startBus_did s (directCode_eq_none.1 hc)⟩
  | step => exact ⟨_, rfl, unlessRefused_did rfl fun hc => transition_did s (stepCode_eq_none.1 hc)⟩
  | rst1 => exact ⟨_, rfl, busWrite_did s rfl rfl⟩
  | rst2 => exact ⟨_, rfl, busWrite_did s rfl rfl⟩
  | cellwr c d => exact ⟨_, rfl, busWrite_did s rfl (isBlockPayload_cellBytes c d)⟩

theorem did_of_exec {i : Instr} {s t : State} (h : exec i s = .next t) : ∃ es, Did s i es t := by
  obtain ⟨es, u, hu, hd⟩ := exec_did i s
  cases hu.symm.trans h
  exact ⟨es, hd⟩

/-- Every instruction but START is a run on the bus side. -/
theorem Did.busRun {s t : State} {i : Instr} {es : List Event} (h : Did s i es t) (hi : i ≠ .start) : BusRun s t es := by
  cases h with
  | encoded | decomposed | refused | built => exact (BusRun.refl s).of_withBus rfl
  | sentHeld hb | sentResets hb | moved _ hb | transacted _ hb => exact hb.of_withBus rfl
  | started => exact absurd rfl hi

end Sys2Proof.Machine

/-!
SUPPORT. The machine's invariant: the agents around the block (`State.BusOk`) and its registers (`State.RegsOk`).
-/
namespace Sys2Proof.Machine

open Sys2Proof.Claims

/-! ## The invariant of the agents around the block -/

/-- The part of the invariant that does not speak of the block's registers. -/
structure State.BusOk (s : State) : Prop where
  dramOk : s.DramOk
  eventsOk : ∀ e ∈ s.trace, e.Ok
  portOk : s.PortOk

/-- The part of the invariant that speaks of the block's registers. -/
structure State.RegsOk (s : State) : Prop where
  statusOk : s.StatusOk
  sequencerOk : s.SequencerOk
  frameSpent : s.FrameSpent

theorem inv_iff (s : State) : s.Inv ↔ s.BusOk ∧ s.RegsOk :=
  ⟨fun h => ⟨⟨h.dramOk, (traceOk_iff s).1 h.traceOk, h.portOk⟩, ⟨h.statusOk, h.sequencerOk, h.frameSpent⟩⟩,
    fun ⟨hb, hr⟩ => ⟨hb.dramOk, hr.statusOk, hr.sequencerOk, hr.frameSpent, (traceOk_iff s).2 hb.eventsOk, hb.portOk⟩⟩

theorem portOk_of_free {s : State} (h : s.busReq = none) : s.PortOk := by simp [State.PortOk, h]

theorem dramOk_of_nil {s : State} (h : s.dram = []) : s.DramOk := by simp [State.DramOk, h]

/-- The display RAM keeps its form over any events (R63). -/
theorem foldl_deliver_dramOk (es : List Event) {m : Memory} (h : Memory.wf m ∧ ∀ x ∈ m, x.1 % 2 = 0 ∧ x.1 ≤ 30) :
    Memory.wf (es.foldl Event.deliver m) ∧ ∀ x ∈ es.foldl Event.deliver m, x.1 % 2 = 0 ∧ x.1 ≤ 30 := by
  induction es generalizing m with
  | nil => exact h
  | cons e es ih =>
    cases e with
    | txn p r => exact ih (deliver_dramOk p r h)
    | busInit r => exact ih h
    | pause k => exact ih h

theorem BusRun.busOk {s t : State} {es : List Event} (h : BusRun s t es) (hs : s.BusOk) : t.BusOk where
  dramOk := by
    unfold State.DramOk
    rw [h.dram]
    exact foldl_deliver_dramOk es hs.dramOk
  eventsOk e he := by
    rw [h.trace] at he
    exact (List.mem_append.1 he).elim (hs.eventsOk e) (h.eventsOk e)
  portOk := by
    obtain hp | hp := h.port
    · exact portOk_of_free hp
    · unfold State.PortOk
      rw [hp]
      exact hs.portOk

theorem emit_busOk {s : State} {e : Event} (he : e.Ok) (hs : s.BusOk) : (emit e s).BusOk where
  dramOk := hs.dramOk
  eventsOk e' he' := (List.mem_append.1 he').elim (hs.eventsOk e') fun h => List.mem_singleton.1 h ▸ he
  portOk := hs.portOk

theorem busInit_ok (r : Config.BusResult) : (Event.busInit r).Ok := by simp [Event.Ok]

theorem Did.busOk {s t : State} {i : Instr} {es : List Event} (h : Did s i es t) (hs : s.BusOk) : t.BusOk := by
  by_cases hi : i = .start
  · subst hi
    cases h with
    | refused => exact ⟨hs.dramOk, hs.eventsOk, hs.portOk⟩
    | built _ hb => simp [BuildsFrame] at hb
    | transacted hp => cases hp
    | started r =>
      obtain ⟨hd, he, hp⟩ := emit_busOk (busInit_ok r) hs
      exact ⟨hd, he, hp⟩
  · exact (h.busRun hi).busOk hs

/-! ## The invariant of the block's registers -/

theorem statusOk_of_reported {s : State} (h : Reported s.status) : s.StatusOk := by
  obtain ⟨c, i, k, hw, hi⟩ := h
  obtain ⟨hc, hf, -, hr⟩ := statusWord_fields c i k
  simp only [State.StatusOk, State.statusReserved, State.code, State.failIdx, hw, hc, hf, hr]
  refine ⟨trivial, by cases c <;> decide, fun hne => hi fun h => hne (h ▸ rfl)⟩

theorem reported_zero : Reported 0 := reported_of_failIdx_zero (c := .ok) .none

theorem nextValue_lt (v : Byte) : (nextValue v).toNat < countModulus := by
  have h : (v.toNat + 1) % 200 < 200 := Nat.mod_lt _ (by decide)
  simp only [nextValue, countModulus, BitVec.toNat_ofNat]
  omega

/-- A transition writes the sequencer's registers only. -/
theorem advance_eq_withSequencer (s : State) :
    ∃ p k v b, advance s = { s with phase := p, bark := k, rval := v, rbatt := b } := by
  unfold advance
  split
  case h_4 => split <;> exact ⟨_, _, _, _, rfl⟩
  all_goals exact ⟨_, _, _, _, rfl⟩

theorem advance_mode (s : State) : (advance s).mode = s.mode := by
  obtain ⟨p, k, v, b, h⟩ := advance_eq_withSequencer s
  rw [h]

/-- A transition keeps the sequencer's ranges (R23, R160). -/
theorem advance_sequencerOk {s : State} (hm : s.mode = .sequencing) (hs : s.SequencerOk) : (advance s).SequencerOk := by
  obtain ⟨-, hbar, hbark, hrval, hrender⟩ := hs
  refine ⟨fun h => absurd ((advance_mode s).trans hm) h, ?_⟩
  cases hp : s.phase with
  | uninit => simp_all [advance_uninit hp]
  | reset => simp_all [advance_reset hp]
  | fillTest => simp_all [advance_fillTest hp]
  | bar =>
    by_cases hk : s.bark.toNat < 8
    · have : (s.bark + 1).toNat ≤ 8 := by simp [BitVec.toNat_add]; omega
      simp_all [advance_nextBar hp hk]
    · simp_all [advance_lastBar hp hk]
  | cleared => simp_all [advance_cleared hp, countModulus]
  | rendering => simp_all [advance_rendering hp, nextValue_lt]

theorem advance_frameSpent {s : State} {v : Bool} (hs : s.FrameSpent)
    (hv : v = false ∨ (s.phase = .uninit ∨ s.phase = .cleared) ∧ v = s.fbValid) :
    (advance s).phase ≠ .uninit → (advance s).phase ≠ .reset → v = false := by
  intro _ hr
  obtain hv | ⟨hp | hp, rfl⟩ := hv
  · exact hv
  · exact absurd (by rw [advance_uninit hp]) hr
  · exact hs (by simp [hp]) (by simp [hp])

theorem Did.regsOk {s t : State} {i : Instr} {es : List Event} (h : Did s i es t) (hs : s.RegsOk) : t.RegsOk := by
  obtain ⟨hst, hseq, hfs⟩ := hs
  have hidle : s.mode = .direct → s.phase = .uninit := fun hm => hseq.1 (by simp [hm])
  cases h with
  | encoded | decomposed => exact ⟨statusOk_of_reported reported_zero, hseq, hfs⟩
  | refused _ hw => exact ⟨statusOk_of_reported hw, hseq, hfs⟩
  | built f _ hm => exact ⟨statusOk_of_reported reported_zero, hseq, fun hp => absurd (hidle hm) hp⟩
  | sentHeld _ hw => exact ⟨statusOk_of_reported hw, hseq, fun _ _ => rfl⟩
  | sentResets _ hw => exact ⟨statusOk_of_reported hw, hseq, hfs⟩
  | started r hm _ hw =>
    exact ⟨statusOk_of_reported hw, ⟨fun _ => hidle hm, hseq.2⟩, fun hp => absurd (hidle hm) hp⟩
  | moved hm _ hw hv => exact ⟨statusOk_of_reported hw, advance_sequencerOk hm hseq, advance_frameSpent hfs hv⟩
  | transacted => exact ⟨hst, hseq, hfs⟩

theorem exec_inv {i : Instr} {s t : State} (h : exec i s = .next t) (hs : s.Inv) : t.Inv := by
  obtain ⟨hb, hr⟩ := (inv_iff s).1 hs
  obtain ⟨es, hd⟩ := did_of_exec h
  exact (inv_iff t).2 ⟨hd.busOk hb, hd.regsOk hr⟩

theorem runCommand_inv {w : Word} {s t : State} (h : runCommand w s = .next t) (hs : s.Inv) : t.Inv := by
  obtain ⟨i, -, ht⟩ | rfl := runCommand_cases h
  · exact exec_inv ht hs
  · exact { hs with statusOk := statusOk_of_reported (reported_of_failIdx_zero _) }

/-! ## The invariant over a reset -/

theorem reset_regsOk : State.reset.RegsOk := ⟨by decide, by decide, by decide⟩

theorem settle_busOk (r : Config.BusResult) {s : State} (hs : s.BusOk) : (settle r s).BusOk := by
  cases hq : s.busReq with
  | none => rwa [settle_none r hq]
  | some q =>
    obtain ⟨-, hp⟩ := hs.portOk q hq
    rw [settle_some r hq]
    exact emit_busOk (by simpa [Event.Ok] using hp) ⟨deliver_dramOk _ _ hs.dramOk, hs.eventsOk, portOk_of_free rfl⟩

/-- A block reset needs nothing of the registers: it gives them all R36's values. -/
theorem blockReset_inv {s : State} (hs : s.BusOk) : (blockReset s).Inv := by
  obtain ⟨hd, he, -⟩ := settle_busOk .err hs
  obtain ⟨hst, hseq, hfs⟩ := reset_regsOk
  exact (inv_iff _).2 ⟨⟨hd, he, portOk_of_free rfl⟩, ⟨hst, hseq, hfs⟩⟩

theorem issue_busOk {p : List Byte} {s : State} (hp : isBlockPayload p = true) (hs : s.BusOk) : (issue p s).BusOk :=
  ⟨hs.dramOk, hs.eventsOk, by simp [State.PortOk, hp]⟩

theorem leaveInFlight_busOk {next : Option Event} {s : State} (hn : ∀ e ∈ next, e.Ok) (hs : s.BusOk) :
    (leaveInFlight next s).BusOk := by
  have hdraw : ({ s with draws := s.draws + 1 } : State).BusOk := ⟨hs.dramOk, hs.eventsOk, hs.portOk⟩
  match next with
  | none => exact hs
  | some (.pause k) => exact hs
  | some (.txn p r) => exact issue_busOk ((hn _ rfl).1 p r rfl) hs
  | some (.busInit r) =>
    simp only [leaveInFlight]
    split
    · exact emit_busOk (busInit_ok _) hdraw
    · exact hdraw

/-- A reset during a command keeps the first of its events (R201), so it keeps what they keep. -/
theorem resetDuring_inv {s t : State} (n : Nat) (inFlight : Bool) (hs : s.BusOk) (ht : t.BusOk) :
    (resetDuring s t n inFlight).Inv := by
  have hes : ∀ e ∈ t.trace.drop s.trace.length, e.Ok := fun e he => ht.eventsOk e (List.mem_of_mem_drop he)
  have hmid : ({ replay ((t.trace.drop s.trace.length).take n) s with draws := t.draws } : State).BusOk :=
    ⟨foldl_deliver_dramOk _ hs.dramOk,
      fun e he => (List.mem_append.1 he).elim (hs.eventsOk e) fun he => hes e (List.mem_of_mem_take he), hs.portOk⟩
  apply blockReset_inv
  cases inFlight with
  | false => exact hmid
  | true => exact leaveInFlight_busOk (fun e he => hes e (List.mem_of_getElem? he)) hmid

/-! ## Every step -/

theorem withHost_inv {s : State} (hs : s.Inv) (rest : List PortEvent) : ({ s with host := rest } : State).Inv := { hs with }

theorem freePort_inv {s : State} (hs : s.Inv) : ({ s with busReq := none } : State).Inv :=
  { hs with portOk := portOk_of_free rfl }

/-- Settles O50: each thing a step can do keeps the invariant. -/
theorem stepKeepsInvariant : Obligations.StepKeepsInvariant := by
  intro s t hs h
  cases step_stepped h with
  | waited => exact hs
  | answered _ _ ht => exact exec_inv ht (freePort_inv hs)
  | ran _ _ ht => exact runCommand_inv ht (withHost_inv hs _)
  | read => exact { hs with }
  | reset => exact blockReset_inv ((inv_iff _).1 (withHost_inv hs _)).1
  | @cut _ _ _ rest _ _ _ ht =>
    have hrest := withHost_inv hs rest
    exact resetDuring_inv _ _ ((inv_iff _).1 hrest).1 ((inv_iff _).1 (runCommand_inv ht hrest)).1
  | poweredOn => exact { hs with dramOk := dramOk_of_nil rfl }

/-- Settles O51: no cell is Known, the trace is empty and the port is free; the registers are R36's. -/
theorem resetHasInvariant : Obligations.ResetHasInvariant :=
  (inv_iff _).2 ⟨⟨dramOk_of_nil rfl, by simp [State.reset], portOk_of_free rfl⟩, reset_regsOk⟩

end Sys2Proof.Machine

/-!
SUPPORT. The bus answers, MODE and the writers of the registers, over every instruction.
-/
namespace Sys2Proof.Machine

open Sys2Proof.Claims

/-! ## Claims about every instruction, read off what it can do -/

/-- START's one event is no transaction, and it leaves the transport's queue (R151). -/
theorem Did.start_txns {s t : State} {es : List Event} (h : Did s .start es t) : txnsOf es = [] ∧ t.busRsp = s.busRsp := by
  cases h with
  | refused => exact ⟨rfl, rfl⟩
  | started r => exact ⟨rfl, rfl⟩
  | built _ hb => simp [BuildsFrame] at hb
  | transacted hp => cases hp

theorem Did.trace {s t : State} {i : Instr} {es : List Event} (h : Did s i es t) : t.trace = s.trace ++ es := by
  by_cases hi : i = .start
  · subst hi
    cases h with
    | refused => simp
    | started r => rfl
    | built _ hb => simp [BuildsFrame] at hb
    | transacted hp => cases hp
  · exact (h.busRun hi).trace

/-- Settles O28: every instruction but START is a run on the bus side, and START sends nothing. -/
theorem transactionsTakeAnswersInOrder : Obligations.TransactionsTakeAnswersInOrder := by
  intro i s
  obtain ⟨es, t, ht, hd⟩ := exec_did i s
  refine ⟨t, es, ht, hd.trace, ?_, fun hi => (hd.busRun hi).left, fun hi => (hi ▸ hd).start_txns⟩
  by_cases hi : i = .start
  · simp [(hi ▸ hd).start_txns.1]
  · exact (hd.busRun hi).answered

/-- An instruction that moves MODE is START in DIRECT (R22). -/
theorem Did.mode {s t : State} {i : Instr} {es : List Event} (h : Did s i es t) :
    t.mode = s.mode ∨ i = .start ∧ s.mode = .direct ∧ t.mode ≠ .direct := by
  cases h with
  | started r hm hm' => exact .inr ⟨rfl, hm, hm'⟩
  | moved => exact .inl (advance_mode s)
  | encoded | decomposed | refused | built | sentHeld | sentResets | transacted => exact .inl rfl

theorem exec_ne_direct {s t : State} {i : Instr} (h : exec i s = .next t) (hs : s.mode ≠ .direct) : t.mode ≠ .direct := by
  obtain ⟨es, hd⟩ := did_of_exec h
  obtain hm | ⟨-, -, hm⟩ := hd.mode
  · rwa [hm]
  · exact hm

theorem runCommand_ne_direct {s t : State} {w : Word} (h : runCommand w s = .next t) (hs : s.mode ≠ .direct) :
    t.mode ≠ .direct := by
  obtain ⟨i, -, ht⟩ | rfl := runCommand_cases h
  · exact exec_ne_direct ht hs
  · exact hs

/-- Settles O46: no instruction returns MODE to DIRECT, so of the things a step can do only the two resets do. -/
theorem onlyStartAndResetMoveMode : Obligations.OnlyStartAndResetMoveMode := by
  refine ⟨fun i s t h hne => ?_, fun s t h hs ht => ?_⟩
  · obtain ⟨es, hd⟩ := did_of_exec h
    exact hd.mode.resolve_left hne
  · cases step_stepped h with
    | waited | read | poweredOn => exact absurd ht hs
    | answered _ _ hx => exact absurd ht (exec_ne_direct hx hs)
    | ran _ _ hx => exact absurd ht (runCommand_ne_direct hx hs)
    | reset hh => exact .inl (by rw [hh]; rfl)
    | cut _ hh => exact .inr ⟨_, _, _, by rw [hh]; rfl⟩

/-- Settles O47: the writers of each register, in each thing an instruction can do. -/
theorem registersHaveTheirWriters : Obligations.RegistersHaveTheirWriters := by
  intro i s t h
  obtain ⟨es, hd⟩ := did_of_exec h
  cases hd with
  | encoded d => simp [Instr.isPayload]
  | decomposed v => simp [Instr.isPayload]
  | refused hi => simp [hi]
  | built f hi =>
    obtain rfl | rfl | ⟨k, rfl⟩ | ⟨v, b, rfl⟩ := hi <;> simp [Instr.isPayload]
  | sentHeld => simp [State.withBus, Instr.isPayload]
  | sentResets => simp [State.withBus, Instr.isPayload]
  | started => simp [Instr.isPayload]
  | moved =>
    obtain ⟨p, k, v, b, h⟩ := advance_eq_withSequencer s
    simp [h, State.withBus, Instr.isPayload]
  | transacted hi => simp [State.withBus]

end Sys2Proof.Machine

/-!
SUPPORT. No command depends on the STATUS before it.
-/
namespace Sys2Proof.Machine

open Sys2Proof.Claims

/-! ## STATUS is overwritten -/

/-- `s` with this word in STATUS. -/
def State.setStatus (x : BitVec 16) (s : State) : State := { s with status := x }

theorem writeCells_setStatus (f : Frame) (cs : List CellIdx) (s : State) (x : BitVec 16) :
    writeCells f cs (s.setStatus x) = ((writeCells f cs s).1, (writeCells f cs s).2.setStatus x) := by
  induction cs generalizing s with
  | nil => rfl
  | cons c cs ih =>
    have ha : (s.setStatus x).answerAt 0 = s.answerAt 0 := rfl
    simp only [writeCells, busWrite_eq, ha]
    cases s.answerAt 0 with
    | ok => exact ih (afterTxn (cellBytes c f[c]) s)
    | err => rfl

theorem writeFrame_setStatus (s : State) (x : BitVec 16) :
    writeFrame (s.setStatus x) = ((writeFrame s).1, (writeFrame s).2.setStatus x) := by
  have h := writeCells_setStatus s.fb allCells s x
  simp only [writeFrame, State.setStatus] at h ⊢
  rw [h]

theorem sendFrame_setStatus (f : Frame) (s : State) (x : BitVec 16) :
    sendFrame f (s.setStatus x) = ((sendFrame f s).1, (sendFrame f s).2.setStatus x) :=
  writeFrame_setStatus (loadFrame f s) x

theorem resetController_setStatus (s : State) (x : BitVec 16) :
    resetController (s.setStatus x) = ((resetController s).1, (resetController s).2.setStatus x) := by
  simp only [resetController_eq]
  rfl

theorem reportWrite_setStatus (res : WriteResult) (k : PauseKind) (s : State) (x : BitVec 16) :
    reportWrite res k (s.setStatus x) = reportWrite res k s := by
  cases res <;> rfl

theorem finishTransition_setStatus (res : WriteResult) (k : PauseKind) (s : State) (x : BitVec 16) :
    finishTransition res k (s.setStatus x) = finishTransition res k s := by
  cases res <;> cases k <;> rfl

theorem unlessRefused_setStatus {run : State → State} {s : State} {x : BitVec 16} (code : Option Code)
    (h : run (s.setStatus x) = run s) : unlessRefused code run (s.setStatus x) = unlessRefused code run s := by
  cases code with
  | none => exact h
  | some c => rfl

theorem buildFrame_setStatus (f : Frame) (s : State) (x : BitVec 16) : buildFrame f (s.setStatus x) = buildFrame f s :=
  unlessRefused_setStatus _ rfl

theorem writeHeldFrame_setStatus (s : State) (x : BitVec 16) : writeHeldFrame (s.setStatus x) = writeHeldFrame s := by
  have hv : (s.setStatus x).fbValid = s.fbValid := rfl
  unfold writeHeldFrame
  rw [writeFrame_setStatus, hv]
  split
  · exact reportWrite_setStatus _ _ _ _
  · rfl

theorem writeReset_setStatus (s : State) (x : BitVec 16) : writeReset (s.setStatus x) = writeReset s := by
  unfold writeReset
  rw [resetController_setStatus]
  exact reportWrite_setStatus _ _ _ _

theorem startBus_setStatus (s : State) (x : BitVec 16) : startBus (s.setStatus x) = startBus s := by
  have ha : (s.setStatus x).initAnswer = s.initAnswer := rfl
  simp only [startBus, busInit_eq, ha]
  cases s.initAnswer <;> rfl

/-- A transition that builds and sends a frame, with its register writes `u`. -/
theorem finishTransition_sent_setStatus (f : Frame) (kind : PauseKind) (u : State → State) (s : State) (x : BitVec 16)
    (hu : ∀ t : State, u (t.setStatus x) = (u t).setStatus x) :
    finishTransition (sendFrame f (s.setStatus x)).1 kind (u (sendFrame f (s.setStatus x)).2) =
      finishTransition (sendFrame f s).1 kind (u (sendFrame f s).2) := by
  rw [sendFrame_setStatus]
  dsimp only
  rw [hu, finishTransition_setStatus]

theorem transition_setStatus (s : State) (x : BitVec 16) : transition (s.setStatus x) = transition s := by
  have hp : (s.setStatus x).phase = s.phase := rfl
  have hk : (s.setStatus x).bark = s.bark := rfl
  unfold transition
  rw [hp, hk]
  split
  case h_1 =>
    unfold toReset
    rw [resetController_setStatus]
    exact finishTransition_setStatus _ _ { (resetController s).2 with phase := .reset } x
  case h_2 => exact finishTransition_sent_setStatus _ _ (fun t => { t with phase := .fillTest }) s x fun _ => rfl
  case h_3 => exact finishTransition_sent_setStatus _ _ (fun t => { t with phase := .bar, bark := 0 }) s x fun _ => rfl
  case h_4 =>
    split
    · exact finishTransition_sent_setStatus _ _ (fun t => { t with bark := s.bark + 1 }) s x fun _ => rfl
    · exact finishTransition_sent_setStatus _ _ (fun t => { t with phase := .cleared, bark := 0 }) s x fun _ => rfl
  case h_5 => rfl
  case h_6 =>
    exact finishTransition_sent_setStatus _ _ (fun t => { t with rbatt := !s.rbatt, rval := nextValue s.rval }) s x fun _ => rfl

theorem exec_setStatus {i : Instr} (hi : i.isPayload = false) (s : State) (x : BitVec 16) :
    exec i (s.setStatus x) = exec i s := by
  cases i with
  | enc d => rfl
  | dec v => rfl
  | bfill => exact congrArg Host.Outcome.next (buildFrame_setStatus _ s x)
  | bclr => exact congrArg Host.Outcome.next (buildFrame_setStatus _ s x)
  | bbar k =>
    simp only [exec, execBbar]
    split
    · exact congrArg Host.Outcome.next (buildFrame_setStatus _ s x)
    · rfl
  | bnum v b => exact congrArg Host.Outcome.next (buildFrame_setStatus _ s x)
  | wrf => exact congrArg Host.Outcome.next (unlessRefused_setStatus _ (writeHeldFrame_setStatus s x))
  | crst => exact congrArg Host.Outcome.next (unlessRefused_setStatus _ (writeReset_setStatus s x))
  | start => exact congrArg Host.Outcome.next (unlessRefused_setStatus _ (startBus_setStatus s x))
  | step => exact congrArg Host.Outcome.next (unlessRefused_setStatus _ (transition_setStatus s x))
  | rst1 => cases hi
  | rst2 => cases hi
  | cellwr c d => cases hi

theorem Did.reported {s t : State} {i : Instr} {es : List Event} (h : Did s i es t) (hi : i.isPayload = false) :
    Reported t.status := by
  cases h with
  | encoded | decomposed | built => exact reported_zero
  | refused _ hw => exact hw
  | sentHeld _ hw => exact hw
  | sentResets _ hw => exact hw
  | started _ _ _ hw => exact hw
  | moved _ _ hw => exact hw
  | transacted hp => simp [hi] at hp

/-- Settles O45: every command reports last, and nothing before the report reads STATUS. -/
theorem commandsOverwriteStatus : Obligations.CommandsOverwriteStatus := by
  intro i s x hi
  obtain ⟨es, t, ht, hd⟩ := exec_did i s
  exact ⟨t, ht, (exec_setStatus hi s x).trans ht, (statusOk_of_reported (hd.reported hi)).1⟩

end Sys2Proof.Machine

/-!
SUPPORT. The words the host presents, the block reset and the read port.
-/
namespace Sys2Proof.Machine

open Sys2Proof.Claims

/-! ## The words on CMD_IN and the payloads on BUS_REQ -/

/-- Settles O7, by what a step does with an event when BUS_REQ is free. -/
theorem stepRunsDecodedCommand : Obligations.StepRunsDecodedCommand := by
  intro s w rest i hb hh hd
  rw [step_event hb hh, serveEvent, runCommand_of_decode hd]

theorem decodeCommand_isPayload {w : Word} {i : Instr} (h : decodeCommand w = .ok i) : i.isPayload = false := by
  unfold decodeCommand requireZero at h
  dsimp only at h
  repeat' split at h
  all_goals cases h
  all_goals rfl

theorem decodePayload_isPayload {bs : List Byte} {i : Instr} (h : decodePayload bs = .ok i) : i.isPayload = true := by
  unfold decodePayload at h
  repeat' split at h
  all_goals cases h
  all_goals rfl

/-- A payload's first byte is CMD_PREFIX (R79). -/
theorem head_of_decodePayload {p : Byte} {bs : List Byte} {i : Instr} (h : decodePayload (p :: bs) = .ok i) : p = cmdPrefix := by
  unfold decodePayload at h
  repeat' split at h
  all_goals simp_all

/-- No 16-bit number is both a command word and a payload: OP 0xE is reserved (R73, R79). -/
theorem decodePayload_of_decodeCommand {w : Nat} {i : Instr} (hw : w < 2 ^ 16) (h : decodeCommand (BitVec.ofNat 16 w) = .ok i) :
    ∃ e, decodePayload (payloadOfNat 16 w) = .error e := by
  cases hd : decodePayload (payloadOfNat 16 w) with
  | error e => exact ⟨e, rfl⟩
  | ok j =>
    have hp : w / 256 = 0xE0 := by
      have := congrArg BitVec.toNat (head_of_decodePayload hd)
      simp [cmdPrefix] at this
      omega
    have hop : (fieldOp (BitVec.ofNat 16 w)).toNat = 0xE := by
      simp [fieldOp, BitVec.extractLsb'_toNat, Nat.shiftRight_eq_div_pow]
      omega
    simp [decodeCommand, hop] at h

theorem step_presentPayload {bs : List Byte} {i : Instr} (hd : decodePayload bs = .ok i) (s : State) :
    step (presentPayload bs s) = exec i { s with busReq := none, host := s.host.dropWhile (fun e => decide (e = .resetN)) } := by
  have hh : (presentPayload bs s).host.head? ≠ some .resetN := by
    intro h
    have := List.head?_dropWhile_not (fun e => decide (e = PortEvent.resetN)) s.host
    simp_all [presentPayload]
  rw [step_request (q := ⟨devAddr, bs, s.cfg.busTimeout⟩) rfl hh, serveRequest_of_decode rfl hd]
  rfl

theorem step_withFetchWord_command {s : State} {w : Nat} {i : Instr} (hw : w < 2 ^ 16)
    (hd : decodeCommand (BitVec.ofNat 16 w) = .ok i) :
    step (s.withFetchWord 16 w) = exec i { s with busReq := none } := by
  obtain ⟨e, he⟩ := decodePayload_of_decodeCommand hw hd
  have hs : s.withFetchWord 16 w = { s with busReq := none, host := .command (BitVec.ofNat 16 w) :: s.host } := by
    simp [State.withFetchWord, presentWord, he]
  rw [hs, step_event rfl rfl, serveEvent, runCommand_of_decode hd]

/-- The two readings of a table number: a command word, or the bytes of a payload (R72, R79). -/
theorem decodeTableWord_cases {nbits w : Nat} {i : Instr} (hn : nbits = 16 ∨ nbits = 24)
    (h : decodeTableWord nbits w = some i) :
    (nbits = 16 ∧ decodeCommand (BitVec.ofNat 16 w) = .ok i) ∨ decodePayload (payloadOfNat nbits w) = .ok i := by
  have hpay : ∀ bs, (decodePayload bs).toOption = some i → decodePayload bs = .ok i := fun bs hbs => by
    cases hd : decodePayload bs with
    | ok j => rw [hd] at hbs; cases hbs; rfl
    | error e => rw [hd] at hbs; cases hbs
  obtain rfl | rfl := hn
  · cases hc : decodeCommand (BitVec.ofNat 16 w) with
    | ok j => exact .inl ⟨rfl, by simpa [decodeTableWord, hc] using h⟩
    | error e => exact .inr (hpay _ (by simpa [decodeTableWord, hc] using h))
  · exact .inr (hpay _ h)

theorem step_withFetchWord_payload {s : State} {nbits w : Nat} {i : Instr} (hn : nbits = 16 ∨ nbits = 24)
    (hd : decodePayload (payloadOfNat nbits w) = .ok i) :
    step (s.withFetchWord nbits w)
      = exec i { s with busReq := none, host := s.host.dropWhile (fun e => decide (e = .resetN)) } := by
  rw [← step_presentPayload hd]
  obtain rfl | rfl := hn <;> simp [State.withFetchWord, presentWord, hd]

/-- Settles O11: a number is placed by the one of the two encodings it decodes in. -/
theorem placedWordRunsNext : Obligations.PlacedWordRunsNext := by
  refine ⟨fun s w i hw hd hi => ?_, fun s nbits w i hn _ hd hi => ?_⟩
  · obtain ⟨-, hc⟩ | hp := decodeTableWord_cases (.inl rfl) hd
    · exact step_withFetchWord_command hw hc
    · simp [decodePayload_isPayload hp] at hi
  · obtain ⟨-, hc⟩ | hp := decodeTableWord_cases hn hd
    · simp [decodeCommand_isPayload hc] at hi
    · exact step_withFetchWord_payload hn hp

/-! ## Reset and the read port -/

/-- Settles O53, by what a block reset does with nothing in flight. -/
theorem resetGivesResetValues : Obligations.ResetGivesResetValues := by
  refine ⟨fun s rest hb hh => ⟨_, step_resetN hh, ?_⟩, ?_, rfl, Memory.read_nil⟩
  · rw [blockReset_idle (s := { s with host := rest }) hb]
    simp [BlockAtReset, State.reset]
  · simp [BlockAtReset, State.reset]

/-- A read answers the register's word, and only the port's output and the draw change (R31). -/
theorem readsAs_of_readWord {s : State} {rn : BitVec 5} {word : BitVec 32 → Prop} (h : ∀ free, word (readWord s rn free)) :
    ReadsAs s rn word := by
  intro rest hb hh
  exact ⟨_, step_event hb hh, h (Config.unspecifiedBits s.draws), rfl⟩

theorem toNat_append_eq_add {m n : Nat} (x : BitVec m) (y : BitVec n) : (x ++ y).toNat = 2 ^ n * x.toNat + y.toNat := by
  rw [BitVec.toNat_append, ← Nat.shiftLeft_add_eq_or_of_lt y.isLt, Nat.shiftLeft_eq, Nat.mul_comm]

theorem toNat_validWord {n : Nat} (hn : n ≤ 31) (valid : Bool) (data free : BitVec n) :
    (validWord valid data free).toNat = if valid then 2 ^ 31 + data.toNat else free.toNat := by
  have h : 2 ^ n ≤ 2 ^ 31 := Nat.pow_le_pow_right (by decide) hn
  have hd := data.isLt
  have hf := free.isLt
  unfold validWord
  rw [toNat_append_eq_add]
  cases valid
  · simp; omega
  · simp; omega

/-- A word with a valid bit: exact where the bit is 1, within the data's width where it is 0 (R32). -/
theorem validWord_reads {n : Nat} (hn : n ≤ 31) (valid : Bool) (data free : BitVec n) :
    if valid then (validWord valid data free).toNat = 2 ^ 31 + data.toNat else (validWord valid data free).toNat < 2 ^ n := by
  rw [toNat_validWord hn]
  cases valid
  · exact free.isLt
  · rfl

theorem readWord_reserved (s : State) {rn : BitVec 5} (free : BitVec 32) (h : 6 ≤ rn.toNat) (h' : rn.toNat ≤ 15) :
    readWord s rn free = 0 := by
  unfold readWord
  split
  case h_7 => rw [if_pos (by omega)]
  all_goals omega

theorem readWord_frameByte (s : State) (c : CellIdx) (free : BitVec 32) :
    readWord s (BitVec.ofNat 5 (16 + c.val)) free = validWord s.fbValid s.fb[c] (free.setWidth 8) := by
  fin_cases c <;> rfl

/-- Settles O55: the words of R31's map, number by number. -/
theorem readPortMap : Obligations.ReadPortMap := by
  refine ⟨rfl, rfl, fun s => ⟨?_, ?_, ?_, ?_, ?_, ?_, ?_, ?_⟩⟩
  · refine readsAs_of_readWord fun free => ?_
    show (s.status.setWidth 32).toNat = _
    exact BitVec.toNat_setWidth_of_le (by decide)
  · exact readsAs_of_readWord fun free => validWord_reads (by decide) _ _ _
  · refine readsAs_of_readWord fun free => ?_
    have hdata : (BitVec.ofBool s.hund ++ s.tens ++ s.units).toNat
        = 2 ^ 16 * s.hund.toNat + 2 ^ 8 * s.tens.toNat + s.units.toNat := by
      simp only [toNat_append_eq_add, BitVec.toNat_ofBool]
      omega
    have h := validWord_reads (by decide) s.decValid (BitVec.ofBool s.hund ++ s.tens ++ s.units) (free.setWidth 17)
    rwa [hdata, ← Nat.add_assoc, ← Nat.add_assoc] at h
  · refine readsAs_of_readWord fun free => ?_
    show (0#22 ++ s.mode.bits ++ s.bark ++ 0#1 ++ s.phase.bits).toNat = _
    simp only [toNat_append_eq_add, BitVec.toNat_ofNat]
    omega
  · refine readsAs_of_readWord fun free => ?_
    show (0#23 ++ BitVec.ofBool s.rbatt ++ s.rval).toNat = _
    simp only [toNat_append_eq_add, BitVec.toNat_ofNat, BitVec.toNat_ofBool]
    omega
  · refine readsAs_of_readWord fun free => ?_
    show (0#31 ++ BitVec.ofBool s.fbValid).toNat = _
    simp only [toNat_append_eq_add, BitVec.toNat_ofNat, BitVec.toNat_ofBool]
    omega
  · exact fun rn h h' => readsAs_of_readWord fun free => by rw [readWord_reserved s free h h']; rfl
  · refine fun c => readsAs_of_readWord fun free => ?_
    rw [readWord_frameByte]
    exact validWord_reads (by decide) _ _ _

end Sys2Proof.Machine

/-!
SUPPORT. The display RAM over one step: the fold of the step's events (R63), its canonical form, and the three payloads.
-/
namespace Sys2Proof.Machine

/-! ## The display RAM is the fold of the trace -/

/-- From `s` to `t` some events were appended to the trace, and the display RAM of `t` is their fold over that of `s` (R63). -/
def State.FoldsTo (s t : State) : Prop :=
  ∃ es : List Event, t.trace = s.trace ++ es ∧ t.dram = es.foldl Event.deliver s.dram

/-- Nothing was emitted and the display RAM is as before; the registers and the ports may differ. -/
theorem State.FoldsTo.of_eq {s t : State} (ht : t.trace = s.trace) (hd : t.dram = s.dram) : s.FoldsTo t :=
  ⟨[], by simp [ht], hd⟩

theorem State.FoldsTo.trans {s t u : State} (h : s.FoldsTo t) (h' : t.FoldsTo u) : s.FoldsTo u := by
  obtain ⟨es, ht, hd⟩ := h
  obtain ⟨es', ht', hd'⟩ := h'
  exact ⟨es ++ es', by rw [ht', ht, List.append_assoc], by rw [hd', hd, List.foldl_append]⟩

/-- START's event leaves the display RAM as it is, and every other instruction is a run on the bus side. -/
theorem Did.dram {s t : State} {i : Instr} {es : List Event} (h : Did s i es t) : t.dram = es.foldl Event.deliver s.dram := by
  cases h with
  | encoded | decomposed | refused | built | started => rfl
  | sentHeld hb | sentResets hb | moved _ hb | transacted _ hb => exact hb.dram

theorem exec_foldsTo {i : Instr} {s t : State} (h : exec i s = .next t) : s.FoldsTo t := by
  obtain ⟨es, hd⟩ := did_of_exec h
  exact ⟨es, hd.trace, hd.dram⟩

theorem runCommand_foldsTo {w : Word} {s t : State} (h : runCommand w s = .next t) : s.FoldsTo t := by
  obtain ⟨i, -, ht⟩ | rfl := runCommand_cases h
  · exact exec_foldsTo ht
  · exact .of_eq rfl rfl

/-- A request that ends is one transaction of the trace (R11). -/
theorem settle_foldsTo (r : Config.BusResult) (s : State) : s.FoldsTo (settle r s) := by
  cases hq : s.busReq with
  | none => rw [settle_none r hq]; exact .of_eq rfl rfl
  | some q => rw [settle_some r hq]; exact ⟨[.txn q.payload r], rfl, rfl⟩

/-- A block reset ends the request in flight, and keeps the trace and the display RAM (R200, R201). -/
theorem blockReset_foldsTo (s : State) : s.FoldsTo (blockReset s) :=
  settle_foldsTo .err s

/-- What a command leaves in flight reaches the display RAM only when it ends (R201). -/
theorem leaveInFlight_foldsTo (next : Option Event) (s : State) : s.FoldsTo (leaveInFlight next s) := by
  match next with
  | none => exact .of_eq rfl rfl
  | some (.pause k) => exact .of_eq rfl rfl
  | some (.txn p r) => exact .of_eq rfl rfl
  | some (.busInit r) =>
    simp only [leaveInFlight]
    split
    case h_1 r' _ => exact ⟨[.busInit r'], rfl, rfl⟩
    case h_2 => exact .of_eq rfl rfl

/-- A reset during a command replays the events the command got to, leaves the next one in flight and resets the block (R201). -/
theorem resetDuring_foldsTo (s t : State) (n : Nat) (inFlight : Bool) : s.FoldsTo (resetDuring s t n inFlight) := by
  have hreplay : s.FoldsTo { replay ((t.trace.drop s.trace.length).take n) s with draws := t.draws } := ⟨_, rfl, rfl⟩
  cases inFlight with
  | false => exact hreplay.trans (blockReset_foldsTo _)
  | true => exact hreplay.trans ((leaveInFlight_foldsTo _ _).trans (blockReset_foldsTo _))

theorem step_foldsTo {s t : State} (h : step s = .next t)
    (hp : s.busReq ≠ none ∨ s.host.head? ≠ some .controllerPowerOn) : s.FoldsTo t := by
  cases step_stepped h with
  | waited => exact .of_eq rfl rfl
  | answered _ _ ht => exact (exec_foldsTo ht :)
  | ran _ _ ht => exact (runCommand_foldsTo ht :)
  | read => exact .of_eq rfl rfl
  | reset => exact blockReset_foldsTo _
  | cut => exact resetDuring_foldsTo _ _ _ _
  | poweredOn hb hh => simp [hb, hh] at hp

/-- The controller's power-on empties the display RAM and emits nothing (R56). -/
theorem step_controllerPowerOn {s t : State} (h : step s = .next t) (hb : s.busReq = none)
    (hh : s.host.head? = some .controllerPowerOn) : t.trace = s.trace ∧ t.dram = [] := by
  obtain ⟨rest, hrest⟩ := List.head?_eq_some_iff.1 hh
  rw [step_event hb hrest] at h
  cases h
  exact ⟨rfl, rfl⟩

/-- Settles O48: the controller's power-on apart, each thing a step can do is a fold. -/
theorem displayRamIsFoldOfTrace : Obligations.DisplayRamIsFoldOfTrace := by
  intro s t h
  by_cases hp : s.busReq = none ∧ s.host.head? = some .controllerPowerOn
  · obtain ⟨hb, hh⟩ := hp
    obtain ⟨ht, hd⟩ := step_controllerPowerOn h hb hh
    exact ⟨[], by simp [ht], fun _ _ => ⟨rfl, hd⟩, fun hn => absurd ⟨hb, hh⟩ (not_and_or.2 hn)⟩
  · obtain ⟨es, ht, hd⟩ := step_foldsTo h (not_and_or.1 hp)
    exact ⟨es, ht, fun hb hh => absurd ⟨hb, hh⟩ hp, fun _ => hd⟩

theorem State.FoldsTo.dramOk {s t : State} (h : s.FoldsTo t) (hs : s.DramOk) : t.DramOk := by
  obtain ⟨es, -, hd⟩ := h
  unfold State.DramOk
  rw [hd]
  exact foldl_deliver_dramOk es hs

/-- Settles O49: a fold of events keeps the form, and a display RAM that lists no cell has it. -/
theorem stepKeepsDisplayRamForm : Obligations.StepKeepsDisplayRamForm := by
  intro s t hs h
  by_cases hp : s.busReq = none ∧ s.host.head? = some .controllerPowerOn
  · exact dramOk_of_nil (step_controllerPowerOn h hp.1 hp.2).2
  · exact (step_foldsTo h (not_and_or.1 hp)).dramOk hs

/-! ## The three payloads -/

theorem exec_cellwr (c : CellIdx) (d : Byte) (s : State) : exec (.cellwr c d) s = .next (afterTxn (cellBytes c d) s) := by
  simp only [exec, execCellwr, busWrite_eq]

theorem exec_rst1 (s : State) : exec .rst1 s = .next (afterTxn rst1Bytes s) := by
  simp only [exec, execRst1, busWrite_eq]

theorem exec_rst2 (s : State) : exec .rst2 s = .next (afterTxn rst2Bytes s) := by
  simp only [exec, execRst2, busWrite_eq]

theorem afterTxn_dram (p : List Byte) (s : State) : (afterTxn p s).dram = deliver p (s.answerAt 0) s.dram := rfl

/-- A cell write changes at most its own cell, whatever its result (R55). -/
theorem read_deliver_cell_other (c : CellIdx) (d : Byte) (r : Config.BusResult) (m : Memory) {a : Nat} (h : a ≠ 2 * c.val) :
    (deliver (cellBytes c d) r m).read a = m.read a := by
  cases r with
  | ok => rw [deliver_cell_ok, Memory.read_write_other m d h]
  | err => rw [deliver_cell_err, Memory.read_forget_other m h]

/-- Settles O24, by what its transaction does to each offset of the display RAM. -/
theorem cellWriteTransaction : Obligations.CellWriteTransaction := by
  intro c d s
  refine ⟨_, exec_cellwr c d s, rfl, fun hok => ?_, fun herr => ?_, fun a ha => read_deliver_cell_other c d _ _ ha⟩
  · rw [afterTxn_dram, hok, deliver_cell_ok, Memory.read_write_same]
  · rw [afterTxn_dram, herr, deliver_cell_err, Memory.read_forget_same]

/-- The later of two writes to one offset stands alone. -/
theorem Memory.write_write_same (m : Memory) (a : Nat) (b b' : Byte) : (m.write a b).write a b' = m.write a b' := by
  induction m with
  | nil => simp [Memory.write]
  | cons x m ih =>
    obtain ⟨k, v⟩ := x
    obtain h | rfl | h := Nat.lt_trichotomy a k
    · simp [Memory.write, h]
    · simp [Memory.write]
    · simp [Memory.write, ih, Nat.lt_asymm h, Nat.ne_of_gt h]

/-- Settles O26: the second write of the same byte finds its cell as it leaves it (R61). -/
theorem cellWriteTwiceIsOnce : Obligations.CellWriteTwiceIsOnce := by
  intro c d s t u h0 h1 ht hu
  rw [exec_cellwr] at ht hu
  cases ht
  cases hu
  rw [afterTxn_dram, afterTxn_answerAt, h1, afterTxn_dram, h0]
  simp only [deliver_cell_ok, Memory.write_write_same]

/-- Settles O25: the result of a reset write does not matter to the display RAM (R57). -/
theorem resetWriteTransaction : Obligations.ResetWriteTransaction :=
  fun s => ⟨exec_rst1 s, exec_rst2 s, Memory.read_nil⟩

/-! ## The request on BUS_REQ -/

/-- Settles O8, by what a step does with a request on BUS_REQ. -/
theorem stepRunsRequestedPayload : Obligations.StepRunsRequestedPayload := by
  intro s q i hq hdev hd hh
  rw [step_request hq hh, serveRequest_of_decode hdev hd]

theorem serveRequest_foreign {q : BusRequest}
    (hq : q.device ≠ devAddr ∨ decodePayload q.payload = .error .notAPayload) (s : State) :
    serveRequest q s = .refused .notThisBlocksRequest := by
  unfold serveRequest
  obtain hdev | hp := hq
  · rw [if_neg hdev]
  · simp [hp]

/-- Settles O9, by what a step does with a request on BUS_REQ. -/
theorem foreignRequestIsRefused : Obligations.ForeignRequestIsRefused := by
  intro s q hq hforeign hh
  rw [step_request hq hh, serveRequest_foreign hforeign]

end Sys2Proof.Machine

/-!
SUPPORT. The two encodings: the command word and its fields (R70), decoding as the inverse of encoding (R72, R79), the illegal
words (R73 to R75), the mode table (R76) and the assembler (R81, R82).
-/
namespace Sys2Proof.Machine

open Sys2Proof.Claims

/-! ## The fields of a command word -/

@[simp] theorem toNat_fieldOp (w : Word) : (fieldOp w).toNat = opOf w := by
  simp only [fieldOp, opOf, BitVec.extractLsb'_toNat, Nat.shiftRight_eq_div_pow]
  omega

@[simp] theorem toNat_fieldA (w : Word) : (fieldA w).toNat = aOf w := by
  simp [fieldA, aOf, BitVec.extractLsb'_toNat, Nat.shiftRight_eq_div_pow]

@[simp] theorem toNat_fieldImm (w : Word) : (fieldImm w).toNat = immOf w := by
  simp [fieldImm, immOf, BitVec.extractLsb'_toNat]

theorem fieldA_eq_zero {w : Word} : fieldA w = 0 ↔ aOf w = 0 := by
  rw [← toNat_fieldA, BitVec.toNat_eq]
  rfl

theorem fieldImm_eq_zero {w : Word} : fieldImm w = 0 ↔ immOf w = 0 := by
  rw [← toNat_fieldImm, BitVec.toNat_eq]
  rfl

/-- The bits of A that BNUM says must be 0 are 0 exactly when A is 0 or 1 (R72). -/
theorem extractLsb'_fieldA_eq_zero {w : Word} : (fieldA w).extractLsb' 1 3 = 0 ↔ aOf w < 2 := by
  have hA : aOf w < 16 := Nat.mod_lt _ (by decide)
  rw [BitVec.toNat_eq, BitVec.extractLsb'_toNat, toNat_fieldA, Nat.shiftRight_eq_div_pow]
  simp only [BitVec.ofNat_eq_ofNat, BitVec.toNat_ofNat]
  omega

/-- CMD = (OP << 12) | (A << 8) | IMM8 (R81). -/
theorem toNat_commandWord (op a : BitVec 4) (imm : Byte) :
    (commandWord op a imm).toNat = 4096 * op.toNat + 256 * a.toNat + imm.toNat := by
  simp only [commandWord, toNat_append_eq_add]
  omega

@[simp] theorem opOf_commandWord (op a : BitVec 4) (imm : Byte) : opOf (commandWord op a imm) = op.toNat := by
  rw [opOf, toNat_commandWord]
  omega

@[simp] theorem fieldA_commandWord (op a : BitVec 4) (imm : Byte) : fieldA (commandWord op a imm) = a := by
  apply BitVec.eq_of_toNat_eq
  rw [toNat_fieldA, aOf, toNat_commandWord]
  omega

@[simp] theorem fieldImm_commandWord (op a : BitVec 4) (imm : Byte) : fieldImm (commandWord op a imm) = imm := by
  apply BitVec.eq_of_toNat_eq
  rw [toNat_fieldImm, immOf, toNat_commandWord]
  omega

/-- A word is made of its fields. -/
theorem commandWord_eq {w : Word} {op a : BitVec 4} {imm : Byte} (hop : opOf w = op.toNat) (ha : fieldA w = a)
    (himm : fieldImm w = imm) : commandWord op a imm = w := by
  apply BitVec.eq_of_toNat_eq
  rw [toNat_commandWord, ← hop, ← ha, ← himm, toNat_fieldA, toNat_fieldImm, opOf, aOf, immOf]
  omega

/-! ## Decoding is the inverse of encoding -/

theorem requireZero_eq_ok {zero : Bool} {i j : Instr} : requireZero zero i = .ok j ↔ zero = true ∧ i = j := by
  cases zero <;> simp [requireZero]

theorem requireZero_eq_error {zero : Bool} {i : Instr} {e : DecodeError} :
    requireZero zero i = .error e ↔ zero = false ∧ .mustBeZero = e := by
  cases zero <;> simp [requireZero]

theorem decodeCommand_of_encodeCommand {i : Instr} {w : Word} (hi : i.wf = true) (h : encodeCommand i = some w) :
    decodeCommand w = .ok i := by
  cases i with
  | rst1 | rst2 | cellwr => cases h
  | bbar k =>
    cases h
    have hk : k.toNat ≤ 8 := by simpa [Instr.wf] using hi
    simp [decodeCommand, hk]
  | bnum v b => cases h; cases b <;> simp [decodeCommand, requireZero]
  | _ => cases h; simp [decodeCommand, requireZero]

/-- The bit of A that BNUM reads is the whole of A, where the other bits of A are 0 (R72). -/
theorem ite_getLsbD_zero_eq {a : BitVec 4} (h : a.extractLsb' 1 3 = 0) : (if a.getLsbD 0 then 1 else 0) = a := by
  revert a; decide

theorem encodeCommand_of_decodeCommand {w : Word} {i : Instr} (h : decodeCommand w = .ok i) :
    i.wf = true ∧ encodeCommand i = some w := by
  unfold decodeCommand at h
  simp only [toNat_fieldOp] at h
  split at h
  case h_1 hop | h_2 hop =>
    obtain ⟨ha, rfl⟩ := requireZero_eq_ok.1 h
    exact ⟨rfl, congrArg some (commandWord_eq hop (of_decide_eq_true ha) rfl)⟩
  case h_5 hop =>
    split_ifs at h with himm ha
    cases h
    exact ⟨decide_eq_true ha, congrArg some (commandWord_eq hop rfl himm)⟩
  case h_6 hop =>
    obtain ⟨ha, rfl⟩ := requireZero_eq_ok.1 h
    exact ⟨rfl, congrArg some (commandWord_eq hop (ite_getLsbD_zero_eq (of_decide_eq_true ha)).symm rfl)⟩
  case h_11 => cases h
  all_goals
    obtain ⟨hzero, rfl⟩ := requireZero_eq_ok.1 h
    rw [Bool.and_eq_true, decide_eq_true_eq, decide_eq_true_eq] at hzero
    exact ⟨rfl, congrArg some (commandWord_eq ‹_› hzero.1 hzero.2)⟩

/-- Settles O3: each row of the opcode map reads its fields back. -/
theorem encodeAfterDecode : Obligations.EncodeAfterDecode := fun _ _ h =>
  have ⟨hwf, henc⟩ := encodeCommand_of_decodeCommand h
  ⟨hwf, decodeCommand_isPayload h, henc⟩

/-- An even offset of at most 30 is the offset of its cell (R54). -/
theorem ofNat_two_mul_cell {off : Byte} (heven : off.getLsbD 0 = false) (hhigh : off.extractLsb' 5 3 = 0) :
    BitVec.ofNat 8 (2 * (off.extractLsb' 1 4).toFin.val) = off := by
  revert off; decide

theorem encodePayload_of_decodePayload {bs : List Byte} {i : Instr} (h : decodePayload bs = .ok i) :
    encodePayload i = some bs := by
  unfold decodePayload at h
  split at h
  case h_1 =>
    split_ifs at h with h1 h2
    · obtain ⟨rfl, rfl⟩ := h1; cases h; rfl
    · obtain ⟨rfl, rfl⟩ := h2; cases h; rfl
  case h_2 =>
    split_ifs at h with hcell
    obtain ⟨rfl, heven, hhigh⟩ := hcell
    cases h
    rw [encodePayload, cellBytes, ofNat_two_mul_cell heven hhigh]
  case h_3 => cases h

theorem decodePayload_error {bs : List Byte} {e : DecodeError} (h : decodePayload bs = .error e) : e = .notAPayload := by
  unfold decodePayload at h
  repeat' split at h
  all_goals cases h
  all_goals rfl

/-- Settles O6: the bytes read as a payload are the bytes of that payload. -/
theorem payloadShapes : Obligations.PayloadShapes := by
  refine ⟨decodePayload_rst1, decodePayload_rst2, decodePayload_cell, fun bs h1 h2 hcell => ?_⟩
  cases hd : decodePayload bs with
  | error e => rw [decodePayload_error hd]
  | ok i =>
    have henc := encodePayload_of_decodePayload hd
    cases i with
    | rst1 => cases henc; exact absurd rfl h1
    | rst2 => cases henc; exact absurd rfl h2
    | cellwr c d => cases henc; exact absurd rfl (hcell c d)
    | _ => cases henc

/-! ## The numbers of spec/opcode_table.json -/

theorem decodeTableWord_encode_of_command {i : Instr} {w : Word} (hi : i.wf = true) (h : encodeCommand i = some w) :
    decodeTableWord (encode i).1 (encode i).2 = some i := by
  have hd := decodeCommand_of_encodeCommand hi h
  simp [encode, h, decodeTableWord, hd]

/-- Three bytes are read back from their 24-bit number (R79). -/
theorem payloadOfNat_bytesToNat (x y z : Byte) : payloadOfNat 24 (bytesToNat [x, y, z]) = [x, y, z] := by
  have hx := x.isLt
  have hy := y.isLt
  have hz := z.isLt
  have hn : bytesToNat [x, y, z] = 65536 * x.toNat + 256 * y.toNat + z.toNat := by
    simp only [bytesToNat, List.foldl_cons, List.foldl_nil]
    omega
  simp only [payloadOfNat, hn, List.cons.injEq, and_true]
  refine ⟨?_, ?_, ?_⟩ <;> apply BitVec.eq_of_toNat_eq <;> rw [BitVec.toNat_ofNat] <;> omega

/-- Settles O2: a command through its word, and a payload through its bytes. -/
theorem decodeAfterEncode : Obligations.DecodeAfterEncode := by
  intro i hi
  cases i with
  | rst1 | rst2 => rfl
  | cellwr c d =>
    show (decodePayload (payloadOfNat 24 (bytesToNat (cellBytes c d)))).toOption = _
    rw [cellBytes, payloadOfNat_bytesToNat, ← cellBytes, decodePayload_cell]
    rfl
  | _ => exact decodeTableWord_encode_of_command hi rfl

/-- Settles O1, by evaluation. -/
theorem writtenWordsDecode : Obligations.WrittenWordsDecode := by
  unfold Obligations.WrittenWordsDecode
  decide

/-! ## The illegal words -/

theorem decodeCommand_of_reservedOp {w : Word} (h : ReservedOp w) : decodeCommand w = .error .reservedOpcode := by
  unfold ReservedOp at h
  unfold decodeCommand
  simp only [toNat_fieldOp]
  split
  case h_11 => rfl
  all_goals omega

theorem decodeCommand_of_zeroBitSet {w : Word} (h : ZeroBitSet w) : decodeCommand w = .error .mustBeZero := by
  unfold decodeCommand
  simp only [toNat_fieldOp, fieldA_eq_zero, fieldImm_eq_zero, extractLsb'_fieldA_eq_zero]
  obtain ⟨hop, ha⟩ | ⟨hop, hz⟩ | ⟨hop, himm⟩ | ⟨hop, ha⟩ := h
  · obtain hop | hop := hop <;> simp [hop, ha, requireZero]
  · have hz' : aOf w = 0 → immOf w ≠ 0 := by omega
    obtain hop | hop | hop | hop | hop | hop := hop <;> simpa [hop, requireZero] using hz'
  · simp [hop, himm]
  · simp [hop, requireZero, Nat.not_lt.2 ha]

theorem zeroBitSet_of_bbar {w : Word} (hop : opOf w = 5) (himm : immOf w ≠ 0) : ZeroBitSet w :=
  .inr (.inr (.inl ⟨hop, himm⟩))

theorem decodeCommand_of_barIndexTooBig {w : Word} (h : BarIndexTooBig w) (hz : ¬ ZeroBitSet w) :
    decodeCommand w = .error .barIndexOutOfRange := by
  obtain ⟨hop, ha⟩ := h
  have himm : immOf w = 0 := Classical.byContradiction fun himm => hz (zeroBitSet_of_bbar hop himm)
  simp [decodeCommand, hop, fieldImm_eq_zero.2 himm, ha]

/-- A word is rejected for one of the three reasons of R73, R74 and R75. -/
theorem illegal_of_decodeCommand_error {w : Word} {e : DecodeError} (h : decodeCommand w = .error e) :
    ReservedOp w ∨ ZeroBitSet w ∨ BarIndexTooBig w := by
  unfold decodeCommand at h
  simp only [toNat_fieldOp, toNat_fieldA, fieldA_eq_zero, fieldImm_eq_zero, extractLsb'_fieldA_eq_zero] at h
  split at h
  case h_1 hop | h_2 hop =>
    have hz := (requireZero_eq_error.1 h).1
    have hset : ZeroBitSet w := .inl ⟨by omega, of_decide_eq_false hz⟩
    exact .inr (.inl hset)
  case h_5 hop =>
    split_ifs at h with himm ha
    · exact .inr (.inr ⟨hop, Nat.not_le.1 ha⟩)
    · exact .inr (.inl (zeroBitSet_of_bbar hop himm))
  case h_6 hop =>
    have hz := (requireZero_eq_error.1 h).1
    have hset : ZeroBitSet w := .inr (.inr (.inr ⟨hop, Nat.not_lt.1 (of_decide_eq_false hz)⟩))
    exact .inr (.inl hset)
  case h_11 =>
    refine .inl ?_
    simp only [imp_false] at *
    unfold ReservedOp
    omega
  all_goals
    have hz := (requireZero_eq_error.1 h).1
    rw [Bool.and_eq_false_iff, decide_eq_false_iff_not, decide_eq_false_iff_not] at hz
    have hset : ZeroBitSet w := .inr (.inl ⟨by omega, hz⟩)
    exact .inr (.inl hset)

theorem decodeCommand_of_illegal {w : Word} (h : ReservedOp w ∨ ZeroBitSet w ∨ BarIndexTooBig w) :
    ∃ e, decodeCommand w = .error e := by
  by_cases hz : ZeroBitSet w
  · exact ⟨_, decodeCommand_of_zeroBitSet hz⟩
  · obtain hop | hz' | hbar := h
    · exact ⟨_, decodeCommand_of_reservedOp hop⟩
    · exact absurd hz' hz
    · exact ⟨_, decodeCommand_of_barIndexTooBig hbar hz⟩

/-- An illegal word is taken, and writes STATUS alone (R78). -/
theorem reportsIllegal_of_decodeCommand_error {w : Word} {e : DecodeError} (h : decodeCommand w = .error e) :
    ReportsIllegal w := by
  intro s rest hb hh
  rw [step_event hb hh, serveEvent, runCommand, h]
  rfl

/-- Settles O4: the decoder rejects exactly the words of R73, R74 and R75. -/
theorem illegalWordsWriteStatusOnly : Obligations.IllegalWordsWriteStatusOnly := by
  refine fun w => ⟨fun h => ?_, fun h => ?_⟩
  · obtain ⟨e, he⟩ := decodeCommand_of_illegal h
    exact reportsIllegal_of_decodeCommand_error he
  · cases hd : decodeCommand w with
    | error e => exact absurd (illegal_of_decodeCommand_error hd) h
    | ok i => exact ⟨i, rfl, fun s rest hb hh => stepRunsDecodedCommand s w rest i hb hh hd⟩

/-! ## The mode table -/

/-- A command refused with a code writes it to STATUS, and nothing else (R78). -/
theorem unlessRefused_some {code : Option Code} {c : Code} (h : code = some c) (run : State → State) (s : State) :
    unlessRefused code run s = { s with status := statusWord c 0 .none } := by
  rw [h]
  rfl

/-- Every command but ENC, DEC and STEP passes the gate of R76 for DIRECT. -/
theorem exec_directGate {i : Instr} (hwf : i.wf = true) (hi : i.isPayload = false) (henc : ∀ d, i ≠ .enc d)
    (hdec : ∀ v, i ≠ .dec v) (hstep : i ≠ .step) (s : State) :
    ∃ run, exec i s = .next (unlessRefused (directCode s.mode) run s) := by
  cases i with
  | enc d => exact absurd rfl (henc d)
  | dec v => exact absurd rfl (hdec v)
  | step => exact absurd rfl hstep
  | rst1 | rst2 | cellwr => cases hi
  | bbar k =>
    have hk : k.toNat ≤ 8 := of_decide_eq_true hwf
    exact ⟨_, by rw [exec, execBbar, if_pos hk, buildFrame]⟩
  | _ => exact ⟨_, rfl⟩

theorem needsDirect_of_directGate {i : Instr}
    (h : ∀ s, ∃ run, exec i s = .next (unlessRefused (directCode s.mode) run s)) : NeedsDirect i := by
  intro s
  obtain ⟨run, heq⟩ := h s
  rw [heq]
  exact ⟨fun hm => congrArg _ (unlessRefused_some (c := .busy) (by rw [hm, directCode]) run s),
    fun hm => congrArg _ (unlessRefused_some (c := .busInitError) (by rw [hm, directCode]) run s)⟩

/-- Settles O40: the two gates of R76. -/
theorem modeTableRefuses : Obligations.ModeTableRefuses := by
  refine ⟨fun i hwf hi henc hdec hstep => needsDirect_of_directGate (exec_directGate hwf hi henc hdec hstep), fun s => ?_⟩
  rw [exec, execStep]
  exact ⟨fun hm => congrArg _ (unlessRefused_some (c := .notStarted) (by rw [hm, stepCode]) transition s),
    fun hm => congrArg _ (unlessRefused_some (c := .busInitError) (by rw [hm, stepCode]) transition s)⟩

theorem exec_wrf_noFrame {s : State} (hm : s.mode = .direct) (hv : s.fbValid = false) :
    exec .wrf s = .next { s with status := 0x0006 } := by
  calc exec .wrf s
      _ = .next (writeHeldFrame s) := by rw [exec, execWrf, hm, directCode, unlessRefused]
      _ = .next (refuse .noFrame s) := by simp [writeHeldFrame, hv]
      _ = .next { s with status := 0x0006 } := rfl

/-- Settles O5: the decoder's checks in order, then MODE's gate, then FB_VALID. -/
theorem commandChecksRunInOrder : Obligations.CommandChecksRunInOrder := by
  refine ⟨fun w => ⟨decodeCommand_of_reservedOp, decodeCommand_of_zeroBitSet, decodeCommand_of_barIndexTooBig,
    fun _ => reportsIllegal_of_decodeCommand_error⟩, fun s hv => ?_⟩
  obtain ⟨hseq, hfail⟩ := needsDirect_of_directGate (i := .wrf) (fun _ => ⟨_, rfl⟩) s
  exact ⟨hseq, hfail, fun hm => exec_wrf_noFrame hm hv⟩

/-! ## The assembler -/

theorem commandWord_ofNat (op a : BitVec 4) {n : Nat} (hn : n ≤ 255) :
    commandWord op a (BitVec.ofNat 8 n) = BitVec.ofNat 16 (4096 * op.toNat + 256 * a.toNat + n) := by
  apply BitVec.eq_of_toNat_eq
  rw [toNat_commandWord, BitVec.toNat_ofNat, BitVec.toNat_ofNat]
  omega

theorem encodeCommand_enc {d : Nat} (hd : d ≤ 255) :
    encodeCommand (.enc (BitVec.ofNat 8 d)) = some (BitVec.ofNat 16 (0x1000 + d)) :=
  congrArg some (commandWord_ofNat 1 0 hd)

theorem encodeCommand_dec {v : Nat} (hv : v ≤ 255) :
    encodeCommand (.dec (BitVec.ofNat 8 v)) = some (BitVec.ofNat 16 (0x2000 + v)) :=
  congrArg some (commandWord_ofNat 2 0 hv)

theorem encodeCommand_bbar {k : Nat} (hk : k ≤ 8) :
    encodeCommand (.bbar (BitVec.ofNat 4 k)) = some (BitVec.ofNat 16 (0x5000 + 256 * k)) := by
  have ha : (BitVec.ofNat 4 k).toNat = k := Nat.mod_eq_of_lt (by omega)
  have h := congrArg some (commandWord_ofNat 5 (BitVec.ofNat 4 k) (Nat.zero_le 255))
  rwa [ha] at h

theorem encodeCommand_bnum {v b : Nat} (hv : v ≤ 255) (hb : b ≤ 1) :
    encodeCommand (.bnum (BitVec.ofNat 8 v) (b == 1)) = some (BitVec.ofNat 16 (0x6000 + 256 * b + v)) := by
  obtain rfl | rfl := Nat.le_one_iff_eq_zero_or_eq_one.1 hb
  · exact congrArg some (commandWord_ofNat 6 0 hv)
  · exact congrArg some (commandWord_ofNat 6 1 hv)

theorem encodeCommand_wrf : encodeCommand .wrf = some 0x7000 := rfl

/-- A line whose operands are checked for their range gives its words in range, and none out of it (R81). -/
theorem bind_encodeCommand_of_range {mnemonic : List Char} {operands : List Nat} {inRange : Prop} [Decidable inRange]
    {is : List Instr} {ws : List Word} (hline : expandLine mnemonic operands = if inRange then some is else none)
    (hwords : inRange → is.mapM encodeCommand = some ws) :
    ((expandLine mnemonic operands).bind fun is => is.mapM encodeCommand) = if inRange then some ws else none := by
  rw [hline]
  split_ifs with h
  · exact hwords h
  · rfl

/-- Settles O56: each line expands where its operands are in range, and each instruction has its word. -/
theorem assemblerRangesAndPseudoInstructions : Obligations.AssemblerRangesAndPseudoInstructions := by
  refine ⟨fun d => ?enc, fun v => ?dec, fun k => ?bbar, fun v b => ?bnum, rfl, rfl, fun k => ?bar, fun v b => ?showLine⟩
  case enc => exact bind_encodeCommand_of_range rfl fun hd => by simp [encodeCommand_enc hd]
  case dec => exact bind_encodeCommand_of_range rfl fun hv => by simp [encodeCommand_dec hv]
  case bbar => exact bind_encodeCommand_of_range rfl fun hk => by simp [encodeCommand_bbar hk]
  case bnum => exact bind_encodeCommand_of_range rfl fun ⟨hv, hb⟩ => by simp [encodeCommand_bnum hv hb]
  case bar => exact bind_encodeCommand_of_range rfl fun hk => by simp [encodeCommand_bbar hk, encodeCommand_wrf]
  case showLine =>
    exact bind_encodeCommand_of_range rfl fun ⟨hv, hb⟩ => by simp [encodeCommand_bnum hv hb, encodeCommand_wrf]

end Sys2Proof.Machine

/-!
SUPPORT. The Segment Encoder: its table over the ten digits (R100), the inverse of the table (R102, R103) and ENC (R101). The
laws about a command's word serve every command of the map of R72.
-/
namespace Sys2Proof.Machine

open Sys2Proof.Claims

/-! ## The table and its inverse -/

/-- The inputs 0..9 are the bytes of ten numbers, so that a fact of R100's entries is ten checks. -/
theorem forall_digit {P : Byte → Prop} (h : ∀ n : Fin 10, P (BitVec.ofNat 8 n.val)) : ∀ d : Byte, d.toNat ≤ 9 → P d := by
  intro d hd
  have hP := h ⟨d.toNat, Nat.lt_succ_of_le hd⟩
  rwa [BitVec.ofNat_toNat, BitVec.setWidth_eq] at hP

theorem encodeDigit_of_nine_lt {d : Byte} (hd : 9 < d.toNat) : encodeDigit d = blank := by
  unfold encodeDigit
  split
  case h_11 => rfl
  all_goals omega

/-- Settles O12: the ten entries one by one, and the fallback past the end of the table. -/
theorem digitTable : Obligations.DigitTable := by
  intro d
  obtain hd | hd := Nat.lt_or_ge 9 d.toNat
  · rw [encodeDigit_of_nine_lt hd, List.getD_eq_default _ _ hd, blank]
  · revert d
    exact forall_digit (by decide)

theorem encodeDigit_ne_blank : ∀ d : Byte, d.toNat ≤ 9 → encodeDigit d ≠ blank := forall_digit (by decide)

theorem encodeDigit_getLsbD_zero : ∀ d : Byte, d.toNat ≤ 9 → (encodeDigit d).getLsbD 0 = false := forall_digit (by decide)

/-- `decode_pattern` finds the digit of each entry of the table (R102). -/
theorem decodePattern_encodeDigit : ∀ d : Byte, d.toNat ≤ 9 → decodePattern (encodeDigit d) = .digit d.toNat :=
  forall_digit (by decide)

/-- Two digits with one pattern are both what `decode_pattern` reads in it. -/
theorem encodeDigit_injOn {d e : Byte} (hd : d.toNat ≤ 9) (he : e.toNat ≤ 9) (h : encodeDigit d = encodeDigit e) : d = e := by
  have hread : Reading.digit d.toNat = .digit e.toNat :=
    calc Reading.digit d.toNat
      _ = decodePattern (encodeDigit d) := (decodePattern_encodeDigit d hd).symm
      _ = decodePattern (encodeDigit e) := congrArg decodePattern h
      _ = .digit e.toNat := decodePattern_encodeDigit e he
  exact BitVec.eq_of_toNat_eq (Reading.digit.inj hread)

theorem decodePattern_blank : decodePattern blank = .blank := if_pos rfl

theorem decodePattern_of_ne_encodeDigit {p : Byte} (hp : p ≠ blank) (h : ∀ d : Byte, d.toNat ≤ 9 → p ≠ encodeDigit d) :
    decodePattern p = .undefined := by
  have hnone : (List.range 10).find? (fun d => encodeDigit (BitVec.ofNat 8 d) = p) = none := by
    refine List.find?_eq_none.2 fun n hn heq => h (BitVec.ofNat 8 n) ?_ (of_decide_eq_true heq).symm
    have hlt : n < 10 := List.mem_range.1 hn
    rw [BitVec.toNat_ofNat]
    omega
  rw [decodePattern, if_neg hp, hnone]

/-- Settles O13: the ten patterns are read back, 0x00 is blank, and the search of the table ends with none for the rest. -/
theorem digitPatternsInvert : Obligations.DigitPatternsInvert :=
  ⟨fun _ _ => encodeDigit_injOn,
    fun d hd => ⟨encodeDigit_ne_blank d hd, encodeDigit_getLsbD_zero d hd, decodePattern_encodeDigit d hd⟩,
    decodePattern_blank, fun _ => decodePattern_of_ne_encodeDigit⟩

/-! ## The word of a command -/

/-- The word of a well-formed command, taken from CMD_IN, runs it (R72). -/
theorem wordRuns_of_encodeCommand {i : Instr} {w : Word} (hi : i.wf = true) (h : encodeCommand i = some w) : WordRuns w i :=
  fun s rest hb hh => stepRunsDecodedCommand s w rest i hb hh (decodeCommand_of_encodeCommand hi h)

/-- A word with a "must be 0" bit set is illegal (R74). -/
theorem reportsIllegal_of_zeroBitSet {w : Word} (h : ZeroBitSet w) : ReportsIllegal w :=
  reportsIllegal_of_decodeCommand_error (decodeCommand_of_zeroBitSet h)

/-- CMD = (OP << 12) | (A << 8) | IMM8 as R81 writes it, bit by bit. -/
theorem commandWord_eq_or (op a : BitVec 4) (imm : Byte) :
    commandWord op a imm = op.setWidth 16 <<< 12 ||| a.setWidth 16 <<< 8 ||| imm.setWidth 16 := by
  ext n hn
  simp only [commandWord, BitVec.getElem_or, BitVec.getElem_shiftLeft, BitVec.getElem_setWidth]
  grind

/-! ## ENC -/

/-- ENC's next state, in every MODE (R101). -/
theorem exec_enc (d : Byte) (s : State) :
    exec (.enc d) s = .next { s with pat := encodeDigit d, patValid := true, status := 0 } := rfl

/-- Settles O14: a second ENC writes the same three registers with the same values. -/
theorem encStoresPattern : Obligations.EncStoresPattern := by
  refine ⟨exec_enc, fun d s t h => ?twice, fun d => wordRuns_of_encodeCommand rfl ?word, fun w hop ha => ?illegal⟩
  case twice =>
    rw [exec_enc] at h
    cases h
    exact exec_enc d _
  case word => simp [encodeCommand, commandWord_eq_or]
  case illegal => exact reportsIllegal_of_zeroBitSet (.inl ⟨.inl hop, ha⟩)

end Sys2Proof.Machine

/-!
SUPPORT. The Value Decomposer: the triple of a value (R110, R112, R113), the number read back from it (R114) and DEC (R111).
-/
namespace Sys2Proof.Machine

/-! ## The decimal digits of a value -/

/-- The pattern of the last decimal digit of n. -/
def lastDigit (n : Nat) : Byte := encodeDigit (BitVec.ofNat 8 (n % 10))

theorem toNat_ofNat_mod_ten (n : Nat) : (BitVec.ofNat 8 (n % 10)).toNat = n % 10 := by
  rw [BitVec.toNat_ofNat]
  omega

theorem toNat_ofNat_mod_ten_le (n : Nat) : (BitVec.ofNat 8 (n % 10)).toNat ≤ 9 := by
  rw [toNat_ofNat_mod_ten]
  omega

theorem lastDigit_ne_blank (n : Nat) : lastDigit n ≠ blank := encodeDigit_ne_blank _ (toNat_ofNat_mod_ten_le n)

theorem decodePattern_lastDigit (n : Nat) : decodePattern (lastDigit n) = .digit (n % 10) := by
  rw [lastDigit, decodePattern_encodeDigit _ (toNat_ofNat_mod_ten_le n), toNat_ofNat_mod_ten]

/-! ## The three ranges -/

theorem decompose_of_lt_ten {v : Byte} (h : v.toNat < 10) : decompose v = ⟨false, blank, lastDigit v.toNat⟩ := if_pos h

theorem decompose_of_lt_hundred {v : Byte} (h : 10 ≤ v.toNat) (h' : v.toNat < 100) :
    decompose v = ⟨false, lastDigit (v.toNat / 10), lastDigit v.toNat⟩ :=
  (if_neg (Nat.not_lt.2 h)).trans (if_pos h')

theorem decompose_of_hundred_le {v : Byte} (h : 100 ≤ v.toNat) :
    decompose v = ⟨true, lastDigit (v.toNat / 10), lastDigit v.toNat⟩ :=
  (if_neg (by omega)).trans (if_neg (Nat.not_lt.2 h))

/-- Settles O15: the range of R110 a value lies in selects its branch. -/
theorem decomposeByRange : Obligations.DecomposeByRange :=
  fun _ => ⟨decompose_of_lt_ten, decompose_of_lt_hundred, decompose_of_hundred_le⟩

/-! ## The parts of a triple -/

/-- The three ranges at once: each part of the triple with the range that decides it. -/
theorem decompose_eq (v : Byte) :
    decompose v =
      ⟨decide (100 ≤ v.toNat), if v.toNat < 10 then blank else lastDigit (v.toNat / 10), lastDigit v.toNat⟩ := by
  obtain hten | hten := Nat.lt_or_ge v.toNat 10
  · rw [decompose_of_lt_ten hten, if_pos hten, decide_eq_false (by omega)]
  · rw [if_neg (Nat.not_lt.2 hten)]
    obtain hhund | hhund := Nat.lt_or_ge v.toNat 100
    · rw [decompose_of_lt_hundred hten hhund, decide_eq_false (Nat.not_le.2 hhund)]
    · rw [decompose_of_hundred_le hhund, decide_eq_true hhund]

theorem decompose_units (v : Byte) : (decompose v).units = lastDigit v.toNat := by rw [decompose_eq]

theorem decompose_tens (v : Byte) : (decompose v).tens = if v.toNat < 10 then blank else lastDigit (v.toNat / 10) := by
  rw [decompose_eq]

theorem decompose_hund_iff (v : Byte) : (decompose v).hund = true ↔ 100 ≤ v.toNat := by rw [decompose_eq, decide_eq_true_iff]

/-- The tens pattern is blank only where it is suppressed: the pattern of a digit lights something (R112). -/
theorem decompose_tens_eq_blank_iff (v : Byte) : (decompose v).tens = blank ↔ v.toNat < 10 := by
  rw [decompose_tens, ite_eq_left_iff]
  exact ⟨fun h => not_not.1 fun hv => lastDigit_ne_blank _ (h hv), fun hv hv' => absurd hv hv'⟩

/-- From 100 on, the patterns are the two digits of v % 100, both shown (R113). -/
theorem decompose_eq_digits_mod_hundred {v : Byte} (h : 100 ≤ v.toNat) :
    decompose v =
      ⟨true, encodeDigit (BitVec.ofNat 8 (v.toNat % 100 / 10)), encodeDigit (BitVec.ofNat 8 (v.toNat % 100 % 10))⟩ := by
  have hten : v.toNat % 100 / 10 = v.toNat / 10 % 10 := Nat.mod_mul_right_div_self v.toNat 10 10
  have hunit : v.toNat % 100 % 10 = v.toNat % 10 := Nat.mod_mod_of_dvd _ (by decide)
  rw [hten, hunit]
  exact decompose_of_hundred_le h

/-- R113: the display does not tell v from v + 100. -/
theorem decompose_add_hundred {v : Byte} (h : 100 ≤ v.toNat) (h' : v.toNat ≤ 155) : decompose (v + 100) = decompose v := by
  have hadd : (v + 100).toNat = v.toNat + 100 := BitVec.toNat_add_of_lt (by simp; omega)
  rw [decompose_eq_digits_mod_hundred h, decompose_eq_digits_mod_hundred (by omega), hadd, Nat.add_mod_right]

/-- Settles O17, by the parts of the triple and by the digits of v % 100 from 100 on. -/
theorem zeroSuppressionAndHundredsFlag : Obligations.ZeroSuppressionAndHundredsFlag := by
  refine fun v => ⟨decompose_tens_eq_blank_iff v, decompose_units v, ?units, decompose_hund_iff v, fun h => ?digits,
    decompose_add_hundred⟩
  case units =>
    rw [decompose_units]
    exact lastDigit_ne_blank _
  case digits =>
    rw [decompose_eq_digits_mod_hundred h]
    exact ⟨rfl, rfl⟩

/-! ## The triple read back -/

/-- What a triple with a units digit shows, its tens a digit or blank (R114). -/
theorem value?_of_digits {t : Digits} {u d : Nat} (hu : decodePattern t.units = .digit u)
    (ht : decodePattern t.tens = .digit d ∨ decodePattern t.tens = .blank ∧ d = 0) :
    t.value? = some ((if t.hund then 100 else 0) + 10 * d + u) := by
  obtain ht | ⟨ht, rfl⟩ := ht <;> simp [Digits.value?, hu, ht]

/-- The triple of v shows its two last digits, after 100 where the flag is set: a suppressed tens digit is 0 (R114). -/
theorem decompose_value? (v : Byte) :
    (decompose v).value? = some ((if 100 ≤ v.toNat then 100 else 0) + v.toNat % 100) := by
  have hunits : decodePattern (decompose v).units = .digit (v.toNat % 10) := by
    rw [decompose_units, decodePattern_lastDigit]
  have htens : decodePattern (decompose v).tens = .digit (v.toNat / 10 % 10)
      ∨ decodePattern (decompose v).tens = .blank ∧ v.toNat / 10 % 10 = 0 := by
    rw [decompose_tens]
    split_ifs with hv
    · exact .inr ⟨decodePattern_blank, by omega⟩
    · exact .inl (decodePattern_lastDigit _)
  have hmod : v.toNat % 100 = v.toNat % 10 + 10 * (v.toNat / 10 % 10) := Nat.mod_mul (a := 10) (b := 10)
  rw [value?_of_digits hunits htens, hmod, Nat.add_comm (v.toNat % 10), Nat.add_assoc]
  simp only [decompose_hund_iff]

/-- Settles O18: a flag of 100 and v % 100 make v below 200, and v - 100 from 200 to 255. -/
theorem tripleReadsBack : Obligations.TripleReadsBack := by
  intro v
  have hv : v.toNat < 256 := v.isLt
  rw [decompose_value?, Option.some_inj, Option.some_inj]
  split_ifs <;> omega

/-! ## DEC -/

/-- DEC's next state, in every MODE (R111). -/
theorem exec_dec (v : Byte) (s : State) :
    exec (.dec v) s = .next { s with
      hund := (decompose v).hund, tens := (decompose v).tens, units := (decompose v).units, decValid := true, status := 0 } := rfl

/-- From 100 to 109 the tens digit is the 0 of v % 100, and it is shown (R111). -/
theorem decompose_tens_of_hundreds_zero {v : Byte} (h : 100 ≤ v.toNat) (h' : v.toNat ≤ 109) : (decompose v).tens = 0xFA := by
  have hten : v.toNat % 100 / 10 = 0 := by omega
  rw [decompose_eq_digits_mod_hundred h, hten]
  rfl

/-- Settles O16: the state DEC answers, its word, the words with a nonzero A, and the corner cases of R111 by evaluation. -/
theorem decStoresTriple : Obligations.DecStoresTriple := by
  refine ⟨exec_dec, fun v => wordRuns_of_encodeCommand rfl ?word, fun w hop ha => ?illegal, by decide, by decide, by decide,
    by decide, by decide, by decide, by decide, fun v => decompose_tens_of_hundreds_zero⟩
  case word => simp [encodeCommand, commandWord_eq_or]
  case illegal => exact reportsIllegal_of_zeroBitSet (.inl ⟨.inr hop, ha⟩)

end Sys2Proof.Machine

/-!
SUPPORT. The frame-build commands: the word of a command with no operand (R72), BFILL and BCLR (R121, R122), BBAR (R124) and BNUM
(R127).
-/
namespace Sys2Proof.Machine

open Sys2Proof.Claims

/-! ## Commands with no operand -/

/-- A command with no operand has one legal word: any other word with its OP has a bit that must be 0 set (R72, R74). -/
theorem reportsIllegal_of_ne_bareWord {w : Word} {op : BitVec 4} (hop : opOf w = op.toNat)
    (hbare : op = 3 ∨ op = 4 ∨ op = 7 ∨ op = 8 ∨ op = 9 ∨ op = 0xA) (hw : w ≠ commandWord op 0 0) : ReportsIllegal w := by
  have hnum : opOf w = 3 ∨ opOf w = 4 ∨ opOf w = 7 ∨ opOf w = 8 ∨ opOf w = 9 ∨ opOf w = 0xA := by
    rw [hop]
    obtain rfl | rfl | rfl | rfl | rfl | rfl := hbare <;> decide
  have hset : aOf w ≠ 0 ∨ immOf w ≠ 0 := by
    rw [← not_and_or]
    exact fun ⟨ha, himm⟩ => hw (commandWord_eq hop (fieldA_eq_zero.2 ha) (fieldImm_eq_zero.2 himm)).symm
  exact reportsIllegal_of_zeroBitSet (.inr (.inl ⟨hnum, hset⟩))

/-! ## A frame is built -/

/-- The gate of R76 lets a command run in DIRECT. -/
theorem unlessRefused_direct {s : State} (hm : s.mode = .direct) (run : State → State) :
    unlessRefused (directCode s.mode) run s = run s := by
  rw [hm]
  rfl

/-- In DIRECT the whole frame goes to FB, and nothing is sent (R120). -/
theorem buildFrame_direct (f : Frame) {s : State} (hm : s.mode = .direct) :
    buildFrame f s = { s with fb := f, fbValid := true, status := 0 } := unlessRefused_direct hm _

/-- Settles O19: the frames of BFILL and BCLR, the gate of R76, and the one word of each. -/
theorem fillAndClearBuild : Obligations.FillAndClearBuild :=
  ⟨fun _ hm => congrArg Host.Outcome.next (buildFrame_direct fillFrame hm),
    fun _ hm => congrArg Host.Outcome.next (buildFrame_direct clearFrame hm),
    needsDirect_of_directGate fun _ => ⟨_, rfl⟩, needsDirect_of_directGate fun _ => ⟨_, rfl⟩,
    wordRuns_of_encodeCommand rfl rfl, wordRuns_of_encodeCommand rfl rfl,
    fun _ hop => reportsIllegal_of_ne_bareWord (op := 3) hop (by decide),
    fun _ hop => reportsIllegal_of_ne_bareWord (op := 4) hop (by decide)⟩

/-! ## BBAR -/

theorem exec_bbar {k : BitVec 4} (hk : k.toNat ≤ 8) (s : State) :
    exec (.bbar k) s = .next (buildFrame (barRow s.cfg k.toNat) s) := by
  rw [exec, execBbar, if_pos hk]

/-- BBAR's next state in DIRECT (R124). -/
theorem exec_bbar_direct {k : BitVec 4} (hk : k.toNat ≤ 8) {s : State} (hm : s.mode = .direct) :
    exec (.bbar k) s = .next { s with fb := barRow s.cfg k.toNat, fbValid := true, status := 0 } := by
  rw [exec_bbar hk, buildFrame_direct _ hm]

/-- Rows 1 to 7 are the parameter's (R123). -/
theorem barRow_succ (cfg : Config.Params) (k : Fin 7) :
    barRow cfg (BitVec.ofNat 4 (k.val + 1)).toNat = cfg.barRows[k] := by
  fin_cases k <;> rfl

/-- Settles O20: each row of the table, the gate of R76, and the two ways a word of BBAR is illegal. -/
theorem bbarBuildsRow : Obligations.BbarBuildsRow := by
  refine ⟨fun s hm => ⟨exec_bbar_direct (by decide) hm, exec_bbar_direct (by decide) hm, fun k => ?row⟩,
    fun k hk => needsDirect_of_directGate fun s => ⟨_, exec_bbar hk s⟩,
    fun k hk => wordRuns_of_encodeCommand (decide_eq_true hk) ?word, fun w hop hbad => ?illegal⟩
  case row =>
    have hk : (BitVec.ofNat 4 (k.val + 1)).toNat ≤ 8 := by
      rw [BitVec.toNat_ofNat]
      omega
    rw [exec_bbar_direct hk hm, barRow_succ]
  case word => simp [encodeCommand, commandWord_eq_or]
  case illegal =>
    obtain ⟨e, he⟩ := decodeCommand_of_illegal (w := w) <| .inr <|
      hbad.symm.imp (zeroBitSet_of_bbar hop) fun ha => ⟨hop, ha⟩
    exact reportsIllegal_of_decodeCommand_error he

/-! ## BNUM -/

/-- Each cell of a numeric frame is the OR of its parts (R125). -/
theorem numFrame_get (l : Config.Layout) (v : Byte) (b : Bool) (c : CellIdx) :
    (numFrame l v b)[c] = numByte l (decompose v) b c := frameOf_get _ c

/-- Settles O21: the numeric frame cell by cell, the gate of R76, the word for either bit, and A above 1. -/
theorem bnumBuildsFrame : Obligations.BnumBuildsFrame := by
  refine ⟨fun v b s hm => ⟨numFrame s.cfg.layout v b, congrArg Host.Outcome.next (buildFrame_direct _ hm), numFrame_get _ v b⟩,
    fun v b => needsDirect_of_directGate fun _ => ⟨_, rfl⟩, fun v b => wordRuns_of_encodeCommand rfl ?word,
    fun w hop ha => reportsIllegal_of_zeroBitSet (.inr (.inr (.inr ⟨hop, ha⟩)))⟩
  case word => cases b <;> simp [encodeCommand, commandWord_eq_or]

end Sys2Proof.Machine

/-!
SUPPORT. R126: the check of a configuration, and what its conditions give: a numeric frame reads back.
-/
namespace Sys2Proof.Machine

open Sys2Proof.Claims

/-! ## The configuration's check -/

/-- Settles O22: the model's check is the conjunction of R126's conditions. -/
theorem configurationIsChecked : Obligations.ConfigurationIsChecked := by
  intro l rows b t f r n s
  refine ⟨fun hwf => ?accepted, fun hnot => dif_neg fun hwf => hnot ((Config.Layout.wf_iff l).1 hwf)⟩
  case accepted => exact ⟨_, dif_pos ((Config.Layout.wf_iff l).2 hwf), rfl, rfl, rfl, rfl, rfl, rfl, rfl⟩

/-! ## Reading a numeric frame back -/

theorem ite_and_eq_zero {p : Prop} [Decidable p] {x m : Byte} (h : p → x &&& m = 0) : (if p then x else 0) &&& m = 0 := by
  split_ifs with hp
  · exact h hp
  · exact BitVec.zero_and

/-- A mask that meets nothing of `extra` in a cell meets none of its parts there (R126). -/
theorem extra_and_eq_zero {l : Config.Layout} {c : CellIdx} {m : Byte} (h : l.extra c &&& m = 0) :
    l.numBase[c] &&& m = 0 ∧ (c = l.hundCell → l.hundMask &&& m = 0) ∧ (c = l.battCell → l.battMask &&& m = 0) := by
  rw [Config.Layout.extra, BitVec.and_or_distrib_right, BitVec.and_or_distrib_right] at h
  obtain ⟨h, hbatt⟩ := BitVec.or_eq_zero_iff.1 h
  obtain ⟨hbase, hhund⟩ := BitVec.or_eq_zero_iff.1 h
  exact ⟨hbase, fun hc => by rwa [if_pos hc] at hhund, fun hc => by rwa [if_pos hc] at hbatt⟩

theorem and_mask_eq_zero_of_digit {d m : Byte} (hd : d &&& 0xFE = d) (hm : m &&& 0xFE = 0) : d &&& m = 0 := by
  rw [← hd, BitVec.and_assoc, BitVec.and_comm 0xFE, hm]
  exact BitVec.and_zero

/-- A mask is held against each part of a cell's byte. -/
theorem numByte_and (l : Config.Layout) (t : Digits) (b : Bool) (c : CellIdx) (m : Byte) :
    numByte l t b c &&& m =
      l.numBase[c] &&& m
        ||| (if c = l.unitsCell then t.units else 0) &&& m
        ||| (if c = l.tensCell then t.tens else 0) &&& m
        ||| (if c = l.hundCell ∧ t.hund then l.hundMask else 0) &&& m
        ||| (if c = l.battCell ∧ b then l.battMask else 0) &&& m := by
  simp only [numByte, BitVec.and_or_distrib_right]

section
variable {l : Config.Layout} (hwf : l.wf = true) (t : Digits) (b : Bool)
include hwf

/-- The units cell shows the units digit: nothing else lights a digit segment there. -/
theorem numByte_unitsCell : numByte l t b l.unitsCell &&& 0xFE = t.units &&& 0xFE := by
  obtain ⟨hne, -, ⟨hextra, -⟩, -⟩ := (Config.Layout.wf_iff l).1 hwf
  obtain ⟨hbase, hhund, hbatt⟩ := extra_and_eq_zero hextra
  have hh := ite_and_eq_zero fun hp : l.unitsCell = l.hundCell ∧ t.hund = true => hhund hp.1
  have hb := ite_and_eq_zero fun hp : l.unitsCell = l.battCell ∧ b = true => hbatt hp.1
  rw [numByte_and, hbase, if_pos rfl, if_neg hne, hh, hb]
  simp

/-- The tens cell shows the tens digit, in the same way. -/
theorem numByte_tensCell : numByte l t b l.tensCell &&& 0xFE = t.tens &&& 0xFE := by
  obtain ⟨hne, -, ⟨-, hextra⟩, -⟩ := (Config.Layout.wf_iff l).1 hwf
  obtain ⟨hbase, hhund, hbatt⟩ := extra_and_eq_zero hextra
  have hh := ite_and_eq_zero fun hp : l.tensCell = l.hundCell ∧ t.hund = true => hhund hp.1
  have hb := ite_and_eq_zero fun hp : l.tensCell = l.battCell ∧ b = true => hbatt hp.1
  rw [numByte_and, hbase, if_pos rfl, if_neg hne.symm, hh, hb]
  simp

variable {t}

/-- Where the hundreds mask shares a cell with a digit, it has none of the digit's bits. -/
theorem numByte_hundCell (hu : t.units &&& 0xFE = t.units) (ht : t.tens &&& 0xFE = t.tens) :
    numByte l t b l.hundCell &&& l.hundMask = if t.hund then l.hundMask else 0 := by
  obtain ⟨-, -, ⟨hextraU, hextraT⟩, ⟨hbase, -⟩, hdisj⟩ := (Config.Layout.wf_iff l).1 hwf
  obtain ⟨-, hhundU, -⟩ := extra_and_eq_zero hextraU
  obtain ⟨-, hhundT, -⟩ := extra_and_eq_zero hextraT
  have hunits := ite_and_eq_zero fun hc : l.hundCell = l.unitsCell => and_mask_eq_zero_of_digit hu (hhundU hc.symm)
  have htens := ite_and_eq_zero fun hc : l.hundCell = l.tensCell => and_mask_eq_zero_of_digit ht (hhundT hc.symm)
  have hbatt := ite_and_eq_zero fun hp : l.hundCell = l.battCell ∧ b = true =>
    (BitVec.and_comm l.battMask l.hundMask).trans (hdisj hp.1)
  rw [numByte_and, hbase, hunits, htens, hbatt]
  cases t.hund <;> simp

/-- The battery mask, in the same way. -/
theorem numByte_battCell (hu : t.units &&& 0xFE = t.units) (ht : t.tens &&& 0xFE = t.tens) :
    numByte l t b l.battCell &&& l.battMask = if b then l.battMask else 0 := by
  obtain ⟨-, -, ⟨hextraU, hextraT⟩, ⟨-, hbase⟩, hdisj⟩ := (Config.Layout.wf_iff l).1 hwf
  obtain ⟨-, -, hbattU⟩ := extra_and_eq_zero hextraU
  obtain ⟨-, -, hbattT⟩ := extra_and_eq_zero hextraT
  have hunits := ite_and_eq_zero fun hc : l.battCell = l.unitsCell => and_mask_eq_zero_of_digit hu (hbattU hc.symm)
  have htens := ite_and_eq_zero fun hc : l.battCell = l.tensCell => and_mask_eq_zero_of_digit ht (hbattT hc.symm)
  have hhund := ite_and_eq_zero fun hp : l.battCell = l.hundCell ∧ t.hund = true => hdisj hp.1.symm
  rw [numByte_and, hbase, hunits, htens, hhund]
  cases b <;> simp

end

theorem ite_mask_ne_zero_iff {p : Bool} {m : Byte} (hm : m ≠ 0) : (if p then m else 0) ≠ 0 ↔ p = true := by
  cases p
  · simp
  · simpa using hm

theorem encodeDigit_and : ∀ d : Byte, d.toNat ≤ 9 → encodeDigit d &&& 0xFE = encodeDigit d := forall_digit (by decide)

theorem lastDigit_and (n : Nat) : lastDigit n &&& 0xFE = lastDigit n := encodeDigit_and _ (toNat_ofNat_mod_ten_le n)

theorem decompose_units_and (v : Byte) : (decompose v).units &&& 0xFE = (decompose v).units := by
  rw [decompose_units, lastDigit_and]

theorem decompose_tens_and (v : Byte) : (decompose v).tens &&& 0xFE = (decompose v).tens := by
  rw [decompose_tens]
  split_ifs
  · decide
  · exact lastDigit_and _

/-- Settles O23: each cell of the frame shows its part of the triple, and the triple shows the value. -/
theorem numericFrameReadsBack : Obligations.NumericFrameReadsBack := by
  intro p v b F
  obtain ⟨-, ⟨hhundMask, hbattMask⟩, -⟩ := (Config.Layout.wf_iff p.layout).1 p.layoutWf
  have hunits : F[p.layout.unitsCell] &&& 0xFE = (decompose v).units := by
    rw [numFrame_get, numByte_unitsCell p.layoutWf, decompose_units_and]
  have htens : F[p.layout.tensCell] &&& 0xFE = (decompose v).tens := by
    rw [numFrame_get, numByte_tensCell p.layoutWf, decompose_tens_and]
  have hhund : F[p.layout.hundCell] &&& p.layout.hundMask ≠ 0 ↔ (decompose v).hund = true := by
    rw [numFrame_get, numByte_hundCell p.layoutWf b (decompose_units_and v) (decompose_tens_and v),
      ite_mask_ne_zero_iff hhundMask]
  have hbatt : F[p.layout.battCell] &&& p.layout.battMask ≠ 0 ↔ b = true := by
    rw [numFrame_get, numByte_battCell p.layoutWf b (decompose_units_and v) (decompose_tens_and v),
      ite_mask_ne_zero_iff hbattMask]
  have hdigits : frameDigits p.layout F = decompose v := by
    rw [frameDigits, hunits, htens]
    simp only [hhund, Bool.decide_eq_true]
  refine ⟨hunits, htens, hhund, hbatt, ?_, fun hv => ?_⟩
  · simp only [frameBattery, hbatt, Bool.decide_eq_true]
  · rw [hdigits]
    exact (tripleReadsBack v).1 hv

end Sys2Proof.Machine

/-!
SUPPORT. The frames a command sends and the reset pair (R128 to R132): WRF and CRST, and the cell writes of every command.
-/
namespace Sys2Proof.Machine

open Sys2Proof.Claims

/-! ## What a sent frame leaves on the bus side -/

theorem firstCells_eq (f : Frame) (n : Nat) : firstCells f n = cellTxns f (allCells.take n) := rfl

theorem firstCells_all (f : Frame) : firstCells f 16 = cellTxns f allCells := rfl

theorem mem_allCells (c : CellIdx) : c ∈ allCells := by revert c; decide

theorem mem_take_allCells {c j : CellIdx} : j ∈ allCells.take c.val ↔ j < c := by revert c j; decide

/-- After 16 writes with Ok every cell holds the frame's byte (R66). -/
theorem cellsWritten_landed (f : Frame) (m : Memory) : FrameLanded f m (cellsWritten f allCells m) :=
  ⟨fun c => cellsWritten_read f allCells m (mem_allCells c), fun _ ha => cellsWritten_read_other f allCells m fun c _ => ha c⟩

/-- After a first Err at cell c the cells before it hold the frame's bytes, and it is Unknown (R128). -/
theorem forget_cellsWritten_cut (f : Frame) (c : CellIdx) (m : Memory) :
    FrameCut f c m ((cellsWritten f (allCells.take c.val) m).forget (2 * c.val)) := by
  refine ⟨fun j hj => ?before, Memory.read_forget_same _ _, fun a ha => ?others⟩
  case before =>
    have hne : 2 * j.val ≠ 2 * c.val := by
      have := Fin.lt_def.1 hj
      omega
    rw [Memory.read_forget_other _ hne, cellsWritten_read f _ m (mem_take_allCells.2 hj)]
  case others =>
    rw [Memory.read_forget_other _ (ha c le_rfl),
      cellsWritten_read_other f _ m fun j hj => ha j (mem_take_allCells.1 hj).le]

/-! ## A command that sends a frame -/

theorem statusWord_ok_eq (kind : PauseKind) : statusWord .ok 0 kind = statusOf 0 0 kind.bits.toNat := by
  cases kind <;> rfl

theorem statusWord_busWriteError_eq (c : CellIdx) (kind : PauseKind) :
    statusWord .busWriteError (BitVec.ofNat 4 c.val) kind = statusOf 1 c.val kind.bits.toNat := by
  revert c
  cases kind <;> decide

/-- The trace events of a pause request (R153). -/
def pauseEvents (kind : PauseKind) : List Event := if kind = .none then [] else [.pause kind]

/-- The end of a transition adds its pause to the trace and writes STATUS (R152, R153). -/
theorem finishTransition_ok (kind : PauseKind) (s : State) :
    finishTransition .ok kind s = { s with
      trace := s.trace ++ pauseEvents kind, status := statusOf 0 0 kind.bits.toNat } := by
  rw [finishTransition, requestPause_eq, reportWrite_ok, report, statusWord_ok_eq]
  rfl

theorem finishTransition_err (c : CellIdx) (kind : PauseKind) (s : State) :
    finishTransition (.err (BitVec.ofNat 4 c.val)) kind s = { s with
      trace := s.trace ++ pauseEvents kind, status := statusOf 1 c.val kind.bits.toNat } := by
  rw [finishTransition, requestPause_eq, reportWrite_err, report, statusWord_busWriteError_eq]
  rfl

/-- A frame built and sent, then the command's own register writes `upd`, its pause and its report (R152, R161). `u` is `s` with
those register writes alone: they do not touch the bus side. -/
theorem finishTransition_sendsFrame (f : Frame) (kind : PauseKind) (upd : State → State) {s u : State}
    (hupd : ∀ (n : Nat) (m : Memory) (es : List Event),
      upd { s.takeAnswers n with busReq := none, fb := f, fbValid := false, dram := m, trace := es } =
        { u.takeAnswers n with busReq := none, fb := f, fbValid := false, dram := m, trace := es }) :
    SendsFrame f (pauseEvents kind) kind.bits.toNat s u
      (finishTransition (sendFrame f s).1 kind (upd (sendFrame f s).2)) := by
  refine ⟨fun hok => ?allOk, fun c ⟨hok, herr⟩ => ?firstErr⟩
  case allOk =>
    rw [sendFrame_ok f s hok, hupd, finishTransition_ok, firstCells_all]
    -- The display RAM stays a name: comparing the states must not evaluate the 16 writes.
    have hland := cellsWritten_landed f s.dram
    generalize cellsWritten f allCells s.dram = m at hland ⊢
    exact ⟨rfl, hland⟩
  case firstErr =>
    rw [sendFrame_err f c s hok herr, hupd, finishTransition_err, firstCells_eq]
    have hcut := forget_cellsWritten_cut f c s.dram
    generalize (cellsWritten f (allCells.take c.val) s.dram).forget (2 * c.val) = m at hcut ⊢
    exact ⟨rfl, hcut⟩

/-! ## WRF -/

/-- A frame held in FB is sent as a frame built there would be. -/
theorem writeFrame_eq_sendFrame {s : State} (hv : s.fbValid = true) : writeFrame s = sendFrame s.fb s := by
  rw [sendFrame, loadFrame, ← hv]

theorem writeHeldFrame_held {s : State} (hv : s.fbValid = true) :
    writeHeldFrame s = finishTransition (sendFrame s.fb s).1 .none (sendFrame s.fb s).2 := by
  rw [writeHeldFrame, if_pos hv, writeFrame_eq_sendFrame hv]
  rfl

/-- WRF writes no register of its own and asks for no pause (R130). -/
theorem writeHeldFrame_sendsFrame {s : State} (hv : s.fbValid = true) : SendsFrame s.fb [] 0 s s (writeHeldFrame s) := by
  rw [writeHeldFrame_held hv]
  exact finishTransition_sendsFrame s.fb .none id fun _ _ _ => rfl

/-- Settles O27: the gates of R76 and of FB_VALID, then the frame writer on the held frame. -/
theorem wrfSendsHeldFrame : Obligations.WrfSendsHeldFrame :=
  ⟨fun s hm hv => ⟨_, congrArg Host.Outcome.next (unlessRefused_direct hm _), writeHeldFrame_sendsFrame hv⟩,
    fun _ => exec_wrf_noFrame, needsDirect_of_directGate fun _ => ⟨_, rfl⟩, wordRuns_of_encodeCommand rfl rfl,
    fun _ hop => reportsIllegal_of_ne_bareWord (op := 7) hop (by decide)⟩

/-! ## CRST -/

/-- CRST's next state in DIRECT: the report is the pair's first failure (R129, R131). -/
theorem writeReset_eq (s : State) :
    writeReset s = { s.takeAnswers 2 with
      busReq := none, dram := []
      trace := s.trace ++ [.txn rst1Bytes (s.answerAt 0), .txn rst2Bytes (s.answerAt 1)]
      status := resetStatus (s.answerAt 0) (s.answerAt 1) } := by
  rw [writeReset, resetController_eq]
  cases s.answerAt 0 <;> cases s.answerAt 1 <;> rfl

/-- Settles O30: CRST sends the pair and reports it. -/
theorem crstSendsResetPair : Obligations.CrstSendsResetPair :=
  ⟨fun s hm => congrArg Host.Outcome.next ((unlessRefused_direct hm _).trans (writeReset_eq s)),
    needsDirect_of_directGate fun _ => ⟨_, rfl⟩, wordRuns_of_encodeCommand rfl rfl,
    fun _ hop => reportsIllegal_of_ne_bareWord (op := 8) hop (by decide)⟩

/-! ## The transitions that send a frame (R155 to R160) -/

theorem toFillTest_sendsFrame (s : State) :
    SendsFrame fillFrame [.pause .fill] 1 s { s with phase := .fillTest } (toFillTest s) :=
  finishTransition_sendsFrame fillFrame .fill (fun t => { t with phase := .fillTest }) fun _ _ _ => rfl

theorem toFirstBar_sendsFrame (s : State) :
    SendsFrame (barRow s.cfg 0) [.pause .bar] 2 s { s with phase := .bar, bark := 0 } (toFirstBar s) :=
  finishTransition_sendsFrame (barRow s.cfg 0) .bar (fun t => { t with phase := .bar, bark := 0 }) fun _ _ _ => rfl

theorem toNextBar_sendsFrame (s : State) :
    SendsFrame (barRow s.cfg (s.bark.toNat + 1)) [.pause .bar] 2 s { s with bark := s.bark + 1 } (toNextBar s) :=
  finishTransition_sendsFrame (barRow s.cfg (s.bark.toNat + 1)) .bar (fun t => { t with bark := s.bark + 1 }) fun _ _ _ => rfl

theorem toCleared_sendsFrame (s : State) :
    SendsFrame clearFrame [] 0 s { s with phase := .cleared, bark := 0 } (toCleared s) :=
  finishTransition_sendsFrame clearFrame .none (fun t => { t with phase := .cleared, bark := 0 }) fun _ _ _ => rfl

theorem renderNext_sendsFrame (s : State) :
    SendsFrame (numFrame s.cfg.layout s.rval s.rbatt) [.pause .render] 3 s
      { s with rbatt := !s.rbatt, rval := nextValue s.rval } (renderNext s) :=
  finishTransition_sendsFrame (numFrame s.cfg.layout s.rval s.rbatt) .render
    (fun t => { t with rbatt := !s.rbatt, rval := nextValue s.rval }) fun _ _ _ => rfl

/-! ## The cell writes of a command -/

/-- The cell writes among these events, 3-byte payloads as they are, are none, a whole frame in address order, or a frame's first
cells and a failed one (R132). -/
def CellsInOrder (es : List Event) : Prop :=
  let cells := (txnsOf es).filter fun x => x.1.length = 3
  cells = []
    ∨ (∃ F : Frame, cells = txnsOf (firstCells F 16))
    ∨ ∃ (F : Frame) (c : CellIdx), cells = txnsOf (firstCells F c.val ++ [cellTxn F .err c])

/-- From `s` to `t` the trace has taken cell writes in order only, and other events. -/
def State.SentInOrder (s t : State) : Prop := ∃ es, t.trace = s.trace ++ es ∧ CellsInOrder es

/-- Events that are all cell writes lose nothing when the other transactions are left out. -/
theorem filter_txnsOf_cells {F : Frame} {es : List Event} (h : ∀ e ∈ es, ∃ r c, e = cellTxn F r c) :
    (txnsOf es).filter (fun x => x.1.length = 3) = txnsOf es := by
  refine List.filter_eq_self.2 fun x hx => ?_
  obtain ⟨e, he, hex⟩ := List.mem_filterMap.1 hx
  obtain ⟨r, c, rfl⟩ := h e he
  cases hex
  rfl

theorem mem_firstCells {F : Frame} {n : Nat} {e : Event} (he : e ∈ firstCells F n) : ∃ r c, e = cellTxn F r c := by
  obtain ⟨c, -, rfl⟩ := List.mem_map.1 he
  exact ⟨.ok, c, rfl⟩

theorem cellsInOrder_all (F : Frame) : CellsInOrder (firstCells F 16) :=
  .inr (.inl ⟨F, filter_txnsOf_cells fun _ => mem_firstCells⟩)

theorem cellsInOrder_cut (F : Frame) (c : CellIdx) : CellsInOrder (firstCells F c.val ++ [cellTxn F .err c]) :=
  .inr (.inr ⟨F, c, filter_txnsOf_cells fun _ he =>
    (List.mem_append.1 he).elim mem_firstCells fun h => ⟨.err, c, List.mem_singleton.1 h⟩⟩)

theorem CellsInOrder.append {es ps : List Event} (h : CellsInOrder es) (hps : txnsOf ps = []) : CellsInOrder (es ++ ps) := by
  rw [CellsInOrder, txnsOf_append, hps, List.append_nil]
  exact h

theorem sentInOrder_of_trace_eq {s t : State} (h : t.trace = s.trace) : s.SentInOrder t := ⟨[], by simp [h], .inl rfl⟩

/-- A command that sends a frame sends all of it, or its cells up to the first Err (R52, R128). -/
theorem sentInOrder_of_sendsFrame {F : Frame} {pauses : List Event} {pause : Nat} {s u t : State}
    (h : SendsFrame F pauses pause s u t) (hp : txnsOf pauses = []) : s.SentInOrder t := by
  obtain ⟨hall, hcut⟩ := h
  obtain hok | ⟨c, hc, herr⟩ := s.answers_ok_or_first_err 16
  · refine ⟨firstCells F 16 ++ pauses, ?_, (cellsInOrder_all F).append hp⟩
    rw [(hall hok).1, List.append_assoc]
  · refine ⟨firstCells F c ++ [cellTxn F .err ⟨c, hc⟩] ++ pauses, ?_, (cellsInOrder_cut F ⟨c, hc⟩).append hp⟩
    rw [(hcut ⟨c, hc⟩ herr).1, List.append_assoc, List.append_assoc, List.append_assoc]

theorem unlessRefused_sentInOrder {code : Option Code} {run : State → State} {s : State} (h : s.SentInOrder (run s)) :
    s.SentInOrder (unlessRefused code run s) := by
  cases code with
  | none => exact h
  | some c => exact sentInOrder_of_trace_eq rfl

theorem buildFrame_sentInOrder (f : Frame) (s : State) : s.SentInOrder (buildFrame f s) :=
  unlessRefused_sentInOrder (sentInOrder_of_trace_eq rfl)

theorem writeHeldFrame_sentInOrder (s : State) : s.SentInOrder (writeHeldFrame s) := by
  cases hv : s.fbValid with
  | true => exact sentInOrder_of_sendsFrame (writeHeldFrame_sendsFrame hv) rfl
  | false => exact sentInOrder_of_trace_eq (by simp [writeHeldFrame, hv])

/-- The reset pair is no cell write (R79). -/
theorem resetController_sentInOrder (s : State) : s.SentInOrder (resetController s).2 := by
  rw [resetController_eq]
  exact ⟨_, rfl, .inl rfl⟩

theorem reportWrite_trace (res : WriteResult) (kind : PauseKind) (s : State) : (reportWrite res kind s).trace = s.trace := by
  cases res <;> rfl

theorem writeReset_sentInOrder (s : State) : s.SentInOrder (writeReset s) := by
  obtain ⟨es, heq, hes⟩ := resetController_sentInOrder s
  exact ⟨es, (reportWrite_trace _ _ _).trans heq, hes⟩

theorem toReset_sentInOrder (s : State) : s.SentInOrder (toReset s) := by
  obtain ⟨es, heq, hes⟩ := resetController_sentInOrder s
  exact ⟨es, (reportWrite_trace _ _ _).trans heq, hes⟩

theorem startBus_sentInOrder (s : State) : s.SentInOrder (startBus s) := by
  rw [startBus, busInit_eq]
  cases s.initAnswer <;> exact ⟨_, rfl, .inl rfl⟩

theorem transition_sentInOrder (s : State) : s.SentInOrder (transition s) := by
  unfold transition
  split
  case h_1 => exact toReset_sentInOrder s
  case h_2 => exact sentInOrder_of_sendsFrame (toFillTest_sendsFrame s) rfl
  case h_3 => exact sentInOrder_of_sendsFrame (toFirstBar_sendsFrame s) rfl
  case h_4 =>
    split
    case isTrue => exact sentInOrder_of_sendsFrame (toNextBar_sendsFrame s) rfl
    case isFalse => exact sentInOrder_of_sendsFrame (toCleared_sendsFrame s) rfl
  case h_5 => exact sentInOrder_of_trace_eq rfl
  case h_6 => exact sentInOrder_of_sendsFrame (renderNext_sendsFrame s) rfl

/-- Every command answers a next state, with its cell writes in order. -/
theorem exec_sentInOrder {i : Instr} (hi : i.isPayload = false) (s : State) : ∃ t, exec i s = .next t ∧ s.SentInOrder t := by
  cases i with
  | enc | dec => exact ⟨_, rfl, sentInOrder_of_trace_eq rfl⟩
  | bfill | bclr | bnum => exact ⟨_, rfl, buildFrame_sentInOrder _ s⟩
  | bbar k =>
    rw [exec, execBbar]
    split
    · exact ⟨_, rfl, buildFrame_sentInOrder _ s⟩
    · exact ⟨_, rfl, sentInOrder_of_trace_eq rfl⟩
  | wrf => exact ⟨_, rfl, unlessRefused_sentInOrder (writeHeldFrame_sentInOrder s)⟩
  | crst => exact ⟨_, rfl, unlessRefused_sentInOrder (writeReset_sentInOrder s)⟩
  | start => exact ⟨_, rfl, unlessRefused_sentInOrder (startBus_sentInOrder s)⟩
  | step => exact ⟨_, rfl, unlessRefused_sentInOrder (transition_sentInOrder s)⟩
  | rst1 | rst2 | cellwr => cases hi

/-- Settles O31, by what each command sends. -/
theorem cellWritesRunInOrder : Obligations.CellWritesRunInOrder := by
  intro i s t hi h
  obtain ⟨u, hu, hsent⟩ := exec_sentInOrder hi s
  cases hu.symm.trans h
  exact hsent

end Sys2Proof.Machine

/-!
SUPPORT. STEP's transitions (R152 to R160): the next state of each, and the frame it sends.
-/
namespace Sys2Proof.Machine

open Sys2Proof.Claims

/-! ## STEP runs the transition of PHASE and BARK -/

/-- The gate of R76 lets STEP run in SEQUENCING. -/
theorem exec_step_sequencing {s : State} (hm : s.mode = .sequencing) : exec .step s = .next (transition s) := by
  rw [exec, execStep, hm, stepCode, unlessRefused]

theorem transition_uninit {s : State} (hp : s.phase = .uninit) : transition s = toReset s := by
  simp [transition, hp]

theorem transition_reset {s : State} (hp : s.phase = .reset) : transition s = toFillTest s := by
  simp [transition, hp]

theorem transition_fillTest {s : State} (hp : s.phase = .fillTest) : transition s = toFirstBar s := by
  simp [transition, hp]

theorem transition_nextBar {s : State} (hp : s.phase = .bar) (hk : s.bark.toNat < 8) : transition s = toNextBar s := by
  simp [transition, hp, hk]

theorem transition_lastBar {s : State} (hp : s.phase = .bar) (hk : ¬ s.bark.toNat < 8) : transition s = toCleared s := by
  simp [transition, hp, hk]

theorem transition_cleared {s : State} (hp : s.phase = .cleared) : transition s = toRendering s := by
  simp [transition, hp]

theorem transition_rendering {s : State} (hp : s.phase = .rendering) : transition s = renderNext s := by
  simp [transition, hp]

/-! ## The transitions that send no frame -/

/-- The reset pair, its report, and the new phase (R129, R154). -/
theorem toReset_eq (s : State) :
    toReset s = { s.takeAnswers 2 with
      phase := .reset, busReq := none, dram := []
      trace := s.trace ++ [.txn rst1Bytes (s.answerAt 0), .txn rst2Bytes (s.answerAt 1)]
      status := resetStatus (s.answerAt 0) (s.answerAt 1) } := by
  rw [toReset, resetController_eq]
  cases s.answerAt 0 <;> cases s.answerAt 1 <;> rfl

theorem toRendering_eq (s : State) :
    toRendering s = { s with rval := 0, rbatt := s.cfg.battInit, phase := .rendering, status := 0x0000 } := rfl

/-- Settles O33: STEP from UNINIT is the reset pair. -/
theorem stepResetsController : Obligations.StepResetsController := by
  intro s hm hp
  rw [exec_step_sequencing hm, transition_uninit hp, toReset_eq]
  rfl

/-- Settles O38: STEP from CLEARED writes registers only. -/
theorem stepEntersRendering : Obligations.StepEntersRendering := by
  intro s hm hp
  rw [exec_step_sequencing hm, transition_cleared hp, toRendering_eq]

/-! ## The transitions that send a frame -/

/-- Settles O34: STEP from RESET is the transition that sends the all-on frame. -/
theorem stepWritesFillTest : Obligations.StepWritesFillTest := by
  intro s hm hp
  rw [exec_step_sequencing hm, transition_reset hp]
  exact ⟨_, rfl, toFillTest_sendsFrame s⟩

/-- Settles O35: STEP from FILLTEST is the transition that sends bar row 0. -/
theorem stepWritesFirstBar : Obligations.StepWritesFirstBar := by
  intro s hm hp
  rw [exec_step_sequencing hm, transition_fillTest hp]
  exact ⟨_, rfl, toFirstBar_sendsFrame s⟩

/-- From BAR(k), k < 8, STEP sends row k + 1 of the table (R123, R157). -/
theorem step_nextBar {s : State} {k : Nat} (hm : s.mode = .sequencing) (hp : s.phase = .bar) (hk : k < 8)
    (hs : s.bark = BitVec.ofNat 4 k) : ∃ t, exec .step s = .next t
      ∧ SendsFrame (barRow s.cfg (k + 1)) [.pause .bar] 2 s { s with bark := BitVec.ofNat 4 (k + 1) } t := by
  have hbark : s.bark.toNat = k := by
    rw [hs, BitVec.toNat_ofNat]
    omega
  have hnext : s.bark + 1 = BitVec.ofNat 4 (k + 1) := by
    rw [hs, BitVec.ofNat_add]
    rfl
  have hsent := toNextBar_sendsFrame s
  rw [hbark, hnext] at hsent
  exact ⟨_, (exec_step_sequencing hm).trans (congrArg _ (transition_nextBar hp (hbark ▸ hk))), hsent⟩

/-- Settles O36: rows 1 to 7 are the parameter's, and row 8 is the table's last. -/
theorem stepWritesNextBar : Obligations.StepWritesNextBar := by
  refine fun s hm hp => ⟨fun k hk => ?parameterRow, fun hk => step_nextBar (k := 7) hm hp (by decide) hk⟩
  have hrow : barRow s.cfg (k.val + 1) = s.cfg.barRows[k] := by
    rw [← barRow_succ, BitVec.toNat_ofNat, Nat.mod_eq_of_lt (by omega)]
  rw [← hrow]
  exact step_nextBar hm hp (by omega) hk

/-- Settles O37: STEP from BAR(8) is the transition that sends the all-off frame. -/
theorem stepWritesClear : Obligations.StepWritesClear := by
  intro s hm hp hk
  rw [exec_step_sequencing hm, transition_lastBar hp (by rw [hk]; decide)]
  exact ⟨_, rfl, toCleared_sendsFrame s⟩

/-- Settles O39: STEP in RENDERING is the transition that sends the numeric frame and counts on. -/
theorem stepRendersAndCounts : Obligations.StepRendersAndCounts := by
  intro s hm hp
  rw [exec_step_sequencing hm, transition_rendering hp]
  exact ⟨_, rfl, renderNext_sendsFrame s⟩

end Sys2Proof.Machine

/-!
SUPPORT. The sequencer over many STEPs (R161 to R163): where a transition goes is the work of MODE, PHASE, BARK, RVAL, RBATT and
the parameters alone, so that a run of STEPs is an iterate of `advance`.
-/
namespace Sys2Proof.Machine

open Sys2Proof.Claims

/-! ## What decides a transition -/

/-- MODE, the sequencer's registers and the parameters, with everything else as at reset. -/
def State.sequencer (s : State) : State :=
  { State.reset with mode := s.mode, phase := s.phase, bark := s.bark, rval := s.rval, rbatt := s.rbatt, cfg := s.cfg }

theorem sequencer_fields {s t : State} (h : t.sequencer = s.sequencer) :
    t.mode = s.mode ∧ t.phase = s.phase ∧ t.bark = s.bark ∧ t.rval = s.rval ∧ t.rbatt = s.rbatt := by
  simp only [State.sequencer, State.mk.injEq] at h
  simp only [h, and_self]

/-- A transition's register writes need nothing but the sequencer. -/
theorem advance_sequencer (s : State) : (advance s).sequencer = advance s.sequencer := by
  cases hp : s.phase with
  | uninit => rw [advance_uninit hp, advance_uninit (s := s.sequencer) hp]; rfl
  | reset => rw [advance_reset hp, advance_reset (s := s.sequencer) hp]; rfl
  | fillTest => rw [advance_fillTest hp, advance_fillTest (s := s.sequencer) hp]; rfl
  | bar =>
    by_cases hk : s.bark.toNat < 8
    · rw [advance_nextBar hp hk, advance_nextBar (s := s.sequencer) hp hk]; rfl
    · rw [advance_lastBar hp hk, advance_lastBar (s := s.sequencer) hp hk]; rfl
  | cleared => rw [advance_cleared hp, advance_cleared (s := s.sequencer) hp]; rfl
  | rendering => rw [advance_rendering hp, advance_rendering (s := s.sequencer) hp]; rfl

/-- The frame the transition from `s` sends, if it sends one (R154 to R160). -/
def stepFrame (s : State) : Option Frame :=
  match s.phase with
  | .uninit => none
  | .reset => some fillFrame
  | .fillTest => some (barRow s.cfg 0)
  | .bar => some (if s.bark.toNat < 8 then barRow s.cfg (s.bark.toNat + 1) else clearFrame)
  | .cleared => none
  | .rendering => some (numFrame s.cfg.layout s.rval s.rbatt)

/-- The pause the transition from `s` asks for (R154 to R160). -/
def stepPause (s : State) : PauseKind :=
  match s.phase with
  | .uninit => .none
  | .reset => .fill
  | .fillTest => .bar
  | .bar => if s.bark.toNat < 8 then .bar else .none
  | .cleared => .none
  | .rendering => .render

/-- The transactions the transition from `s` sends when all are answered Ok (R128, R129). -/
def stepTxns (s : State) : Nat :=
  match stepFrame s with
  | some _ => 16
  | none => if s.phase = .uninit then 2 else 0

theorem stepFrame_eq_none {s : State} (h : stepFrame s = none) : s.phase = .uninit ∨ s.phase = .cleared := by
  unfold stepFrame at h
  split at h <;> simp_all

/-- The tables above are the model's: the transition from `s` sends this frame, writes the registers of `advance`, and asks for
this pause. -/
theorem transition_sendsFrame {s : State} {f : Frame} (hf : stepFrame s = some f) :
    SendsFrame f (pauseEvents (stepPause s)) (stepPause s).bits.toNat s (advance s) (transition s) := by
  cases hp : s.phase with
  | uninit | cleared => simp [stepFrame, hp] at hf
  | reset =>
    simp only [stepFrame, stepPause, hp, Option.some.injEq] at hf ⊢
    rw [← hf, advance_reset hp, transition_reset hp]
    exact toFillTest_sendsFrame s
  | fillTest =>
    simp only [stepFrame, stepPause, hp, Option.some.injEq] at hf ⊢
    rw [← hf, advance_fillTest hp, transition_fillTest hp]
    exact toFirstBar_sendsFrame s
  | bar =>
    by_cases hk : s.bark.toNat < 8
    · simp only [stepFrame, stepPause, hp, hk, if_true, Option.some.injEq] at hf ⊢
      rw [← hf, advance_nextBar hp hk, transition_nextBar hp hk]
      exact toNextBar_sendsFrame s
    · simp only [stepFrame, stepPause, hp, hk, if_false, Option.some.injEq] at hf ⊢
      rw [← hf, advance_lastBar hp hk, transition_lastBar hp hk]
      exact toCleared_sendsFrame s
  | rendering =>
    simp only [stepFrame, stepPause, hp, Option.some.injEq] at hf ⊢
    rw [← hf, advance_rendering hp, transition_rendering hp]
    exact renderNext_sendsFrame s

/-! ## What a transition does whatever the bus answers -/

theorem pausesOf_append (es es' : List Event) : pausesOf (es ++ es') = pausesOf es ++ pausesOf es' := List.filterMap_append

theorem pausesOf_firstCells (F : Frame) (n : Nat) : pausesOf (firstCells F n) = [] := by
  refine List.filterMap_eq_nil_iff.2 fun e he => ?_
  obtain ⟨r, c, rfl⟩ := mem_firstCells he
  rfl

theorem statusWord_pause (c : Code) (i : BitVec 4) (k : PauseKind) : (statusWord c i k).extractLsb' 8 2 = k.bits := by
  obtain ⟨-, -, hpause, -⟩ := statusWord_fields c i k
  exact hpause

theorem resetStatus_pause (r r' : Config.BusResult) : (resetStatus r r').extractLsb' 8 2 = PauseKind.none.bits := by
  cases r <;> cases r' <;> rfl

/-- What a transition from `s` to `t` does whatever the bus answers (R161). -/
structure Transitioned (s t : State) : Prop where
  sequencer : t.sequencer = advance s.sequencer
  fb : t.fb = (stepFrame s).getD s.fb
  fbValid : t.fbValid = ((stepFrame s).isNone && s.fbValid)
  pause : t.pause = (stepPause s).bits
  pauses : pausesOf t.trace = pausesOf s.trace ++ pausesOf (pauseEvents (stepPause s))

/-- The registers a sent frame leaves do not depend on the answers, but for the code and the index in STATUS; its transactions
come before the pause, and are no pause requests (R128, R152, R153). -/
theorem registers_of_sendsFrame {F : Frame} {kind : PauseKind} {s u t : State}
    (h : SendsFrame F (pauseEvents kind) kind.bits.toNat s u t) :
    ∃ c i es, t = { u.withBus t with fb := F, fbValid := false, status := statusWord c i kind }
      ∧ t.trace = s.trace ++ es ++ pauseEvents kind ∧ pausesOf es = [] := by
  obtain ⟨hall, hcut⟩ := h
  obtain hok | ⟨c, hc, herr⟩ := s.answers_ok_or_first_err 16
  · have ht := (hall hok).1
    generalize t.dram = m at ht
    exact ⟨.ok, 0, firstCells F 16, by rw [statusWord_ok_eq, ht]; rfl, by rw [ht], pausesOf_firstCells F 16⟩
  · have ht := (hcut ⟨c, hc⟩ herr).1
    generalize t.dram = m at ht
    refine ⟨.busWriteError, BitVec.ofNat 4 c, firstCells F c ++ [cellTxn F .err ⟨c, hc⟩], ?_, ?_, ?_⟩
    · rw [statusWord_busWriteError_eq ⟨c, hc⟩, ht]
      rfl
    · rw [ht, List.append_assoc s.trace]
    · rw [pausesOf_append, pausesOf_firstCells]
      rfl

theorem transitioned_of_sendsFrame {s t : State} {f : Frame} (hf : stepFrame s = some f)
    (h : SendsFrame f (pauseEvents (stepPause s)) (stepPause s).bits.toNat s (advance s) t) : Transitioned s t := by
  obtain ⟨c, i, es, ht, htrace, hes⟩ := registers_of_sendsFrame h
  have hpauses : pausesOf t.trace = pausesOf s.trace ++ pausesOf (pauseEvents (stepPause s)) := by
    rw [htrace, pausesOf_append, pausesOf_append, hes, List.append_nil]
  refine ⟨?_, ?_, ?_, ?_, hpauses⟩
  · rw [ht, ← advance_sequencer]
    rfl
  · rw [ht, hf]
    rfl
  · rw [ht, hf]
    rfl
  · rw [ht]
    exact statusWord_pause c i (stepPause s)

theorem transition_transitioned (s : State) : Transitioned s (transition s) := by
  cases hf : stepFrame s with
  | some f => exact transitioned_of_sendsFrame hf (transition_sendsFrame hf)
  | none =>
    have hphase := stepFrame_eq_none hf
    have hk : stepPause s = .none := by obtain hp | hp := hphase <;> rw [stepPause, hp]
    obtain hp | hp := hphase
    · rw [transition_uninit hp, toReset_eq]
      refine ⟨?_, by rw [hf]; rfl, by rw [hf]; rfl, by rw [hk]; exact resetStatus_pause _ _, ?_⟩
      · rw [← advance_sequencer, advance_uninit hp]
        rfl
      · rw [pausesOf_append, hk]
        rfl
    · rw [transition_cleared hp, toRendering_eq]
      refine ⟨?_, by rw [hf]; rfl, by rw [hf]; rfl, by rw [hk]; exact statusWord_pause .ok 0 .none, ?_⟩
      · rw [← advance_sequencer, advance_cleared hp]
        rfl
      · rw [hk]
        exact (List.append_nil _).symm

/-- Settles O41: two transitions with one sequencer before them, or two refusals. -/
theorem failedWriteDoesNotStopSequencer : Obligations.FailedWriteDoesNotStopSequencer := by
  intro s t t' answers n ht ht'
  by_cases hm : s.mode = .sequencing
  · cases (exec_step_sequencing hm).symm.trans ht
    cases (exec_step_sequencing (s := { s with busRsp := answers, draws := n }) hm).symm.trans ht'
    have h := transition_transitioned s
    have h' := transition_transitioned { s with busRsp := answers, draws := n }
    have hseq : (transition { s with busRsp := answers, draws := n }).sequencer = (transition s).sequencer :=
      h'.sequencer.trans h.sequencer.symm
    obtain ⟨hmode, hphase, hbark, hrval, hrbatt⟩ := sequencer_fields hseq
    exact ⟨hmode, hphase, hbark, hrval, hrbatt, h'.fb.trans h.fb.symm, h'.fbValid.trans h.fbValid.symm,
      h'.pause.trans h.pause.symm, h'.pauses.trans h.pauses.symm⟩
  · obtain ⟨c, hc⟩ := Option.ne_none_iff_exists'.1 (mt stepCode_eq_none.1 hm)
    cases (congrArg Host.Outcome.next (unlessRefused_some hc transition s)).symm.trans ht
    cases (congrArg Host.Outcome.next
      (unlessRefused_some hc transition { s with busRsp := answers, draws := n })).symm.trans ht'
    exact ⟨rfl, rfl, rfl, rfl, rfl, rfl, rfl, rfl, rfl⟩

/-! ## Many STEPs -/

/-- With Ok answers a transition sends all its transactions (R128, R129). -/
theorem transition_txns {s : State} (hok : AllOk s (stepTxns s)) :
    (txnsOf (transition s).trace).length = (txnsOf s.trace).length + stepTxns s := by
  cases hf : stepFrame s with
  | some f =>
    have hn : stepTxns s = 16 := by rw [stepTxns, hf]
    obtain ⟨hall, -⟩ := transition_sendsFrame hf
    obtain ⟨hsent, -⟩ := hall (hn ▸ hok)
    have hpauses : txnsOf (pauseEvents (stepPause s)) = [] := by cases stepPause s <;> rfl
    rw [hsent, hn]
    simp only [txnsOf_append, hpauses, List.append_nil, List.length_append]
    rfl
  | none =>
    obtain hp | hp := stepFrame_eq_none hf
    · have hn : stepTxns s = 2 := by rw [stepTxns, hf]; simp [hp]
      rw [transition_uninit hp, toReset_eq, hn, txnsOf_append, List.length_append]
      rfl
    · have hn : stepTxns s = 0 := by rw [stepTxns, hf]; simp [hp]
      rw [transition_cleared hp, toRendering_eq, hn]
      rfl

/-- A transition as a run on the bus side, with its pause requests and its transactions counted. -/
theorem transition_busRun {s : State} (hm : s.mode = .sequencing) : ∃ es, BusRun s (transition s) es
    ∧ pausesOf es = pausesOf (pauseEvents (stepPause s)) ∧ (AllOk s (stepTxns s) → (txnsOf es).length = stepTxns s) := by
  obtain ⟨es, hd⟩ := transition_did s hm
  have hb := hd.busRun (by decide)
  refine ⟨es, hb, ?pauses, fun hok => ?txns⟩
  case pauses =>
    have h := (transition_transitioned s).pauses
    rw [hb.trace, pausesOf_append] at h
    exact List.append_cancel_left h
  case txns =>
    have h := transition_txns hok
    rw [hb.trace, txnsOf_append, List.length_append] at h
    exact Nat.add_left_cancel h

/-- From the sequencer `s`, n transitions lead to `u`, with these pauses asked for, in order, and this many transactions sent when
all are answered Ok. -/
inductive Advances : Nat → State → State → List PauseKind → Nat → Prop
  | refl (s : State) : Advances 0 s s [] 0
  | cons {n : Nat} {s u : State} {ps : List PauseKind} {k : Nat} (h : Advances n (advance s) u ps k) :
      Advances (n + 1) s u (pausesOf (pauseEvents (stepPause s)) ++ ps) (stepTxns s + k)

/-- Where the sequencer advances, that many STEPs lead, whatever the bus answers, with the same pauses and transactions (R161). -/
theorem Advances.stepTimes {n k : Nat} {q u s : State} {ps : List PauseKind} (h : Advances n q u ps k) (hq : s.sequencer = q)
    (hm : s.mode = .sequencing) : ∃ t es, Claims.stepTimes n s = .next t ∧ t.sequencer = u ∧ t.trace = s.trace ++ es
      ∧ pausesOf es = ps ∧ (AllOk s k → (txnsOf es).length = k) := by
  induction h generalizing s with
  | refl q => exact ⟨s, [], rfl, hq, by simp, rfl, fun _ => rfl⟩
  | @cons n q u ps k _ ih =>
    subst hq
    have hseq := (transition_transitioned s).sequencer
    have hm' : (transition s).mode = .sequencing := (congrArg State.mode hseq).trans ((advance_mode s.sequencer).trans hm)
    obtain ⟨es, hb, hfirstPauses, hfirstTxns⟩ := transition_busRun hm
    obtain ⟨t, es', ht, hlast, htrace, hps, htxns⟩ := ih hseq hm'
    refine ⟨t, es ++ es', ?runs, hlast, ?trace, ?pauses, fun hok => ?txns⟩
    case runs => rwa [Claims.stepTimes, exec_step_sequencing hm]
    case trace => rw [htrace, hb.trace, List.append_assoc]
    case pauses =>
      rw [pausesOf_append, hfirstPauses, hps]
      rfl
    case txns =>
      have hfirst : (txnsOf es).length = stepTxns s := hfirstTxns fun j hj => hok j (Nat.lt_add_right k hj)
      have hrest : (txnsOf es').length = k := htxns fun j hj => by
        rw [hb.left, hfirst]
        exact hok _ (Nat.add_lt_add_left hj _)
      rw [txnsOf_append, List.length_append, hfirst, hrest]
      rfl

/-! ## From UNINIT to RENDERING -/

theorem Advances.uninit {n k : Nat} {s u : State} {ps : List PauseKind} (hp : s.phase = .uninit)
    (h : Advances n { s with phase := .reset } u ps k) : Advances (n + 1) s u ps (2 + k) := by
  rw [← advance_uninit hp] at h
  simpa [stepTxns, stepFrame, stepPause, hp, pauseEvents, pausesOf] using h.cons

theorem Advances.reset {n k : Nat} {s u : State} {ps : List PauseKind} (hp : s.phase = .reset)
    (h : Advances n { s with phase := .fillTest } u ps k) : Advances (n + 1) s u (.fill :: ps) (16 + k) := by
  rw [← advance_reset hp] at h
  simpa [stepTxns, stepFrame, stepPause, hp, pauseEvents, pausesOf] using h.cons

theorem Advances.fillTest {n k : Nat} {s u : State} {ps : List PauseKind} (hp : s.phase = .fillTest)
    (h : Advances n { s with phase := .bar, bark := 0 } u ps k) : Advances (n + 1) s u (.bar :: ps) (16 + k) := by
  rw [← advance_fillTest hp] at h
  simpa [stepTxns, stepFrame, stepPause, hp, pauseEvents, pausesOf] using h.cons

theorem Advances.nextBar {n k : Nat} {s u : State} {ps : List PauseKind} (hp : s.phase = .bar) (hk : s.bark.toNat < 8)
    (h : Advances n { s with bark := s.bark + 1 } u ps k) : Advances (n + 1) s u (.bar :: ps) (16 + k) := by
  rw [← advance_nextBar hp hk] at h
  simpa [stepTxns, stepFrame, stepPause, hp, hk, pauseEvents, pausesOf] using h.cons

theorem Advances.lastBar {n k : Nat} {s u : State} {ps : List PauseKind} (hp : s.phase = .bar) (hk : s.bark = 8)
    (h : Advances n { s with phase := .cleared, bark := 0 } u ps k) : Advances (n + 1) s u ps (16 + k) := by
  rw [← advance_lastBar hp (by rw [hk]; decide)] at h
  simpa [stepTxns, stepFrame, stepPause, hp, hk, pauseEvents, pausesOf] using h.cons

theorem Advances.cleared {n k : Nat} {s u : State} {ps : List PauseKind} (hp : s.phase = .cleared)
    (h : Advances n { s with rval := 0, rbatt := s.cfg.battInit, phase := .rendering } u ps k) :
    Advances (n + 1) s u ps k := by
  rw [← advance_cleared hp] at h
  simpa [stepTxns, stepFrame, stepPause, hp, pauseEvents, pausesOf] using h.cons

theorem Advances.rendering {n k : Nat} {s u : State} {ps : List PauseKind} (hp : s.phase = .rendering)
    (h : Advances n { s with rbatt := !s.rbatt, rval := nextValue s.rval } u ps k) :
    Advances (n + 1) s u (.render :: ps) (16 + k) := by
  rw [← advance_rendering hp] at h
  simpa [stepTxns, stepFrame, stepPause, hp, pauseEvents, pausesOf] using h.cons

/-- Row by row, the bar animation goes on to its row 8 (R157). -/
theorem Advances.bars {n k : Nat} {s u : State} {ps : List PauseKind} (j : Nat) (hp : s.phase = .bar)
    (hk : s.bark.toNat + j = 8) (h : Advances n { s with bark := 8 } u ps k) :
    Advances (n + j) s u (List.replicate j .bar ++ ps) (16 * j + k) := by
  induction j generalizing s with
  | zero =>
    have hlast : s.bark = 8 := BitVec.eq_of_toNat_eq hk
    rw [← hlast] at h
    simpa using h
  | succ j ih =>
    have hnext : (s.bark + 1).toNat + j = 8 := by bv_omega
    have hrest := ih (s := { s with bark := s.bark + 1 }) hp hnext h
    rw [Nat.mul_succ, Nat.add_comm (16 * j), Nat.add_assoc]
    exact hrest.nextBar hp (by omega)

/-- Thirteen transitions from UNINIT: the reset pair, the fill, nine bars, the clear, and the entry to RENDERING (R162). -/
theorem advances_startup {s : State} (hp : s.phase = .uninit) :
    Advances 13 s { s with phase := .rendering, bark := 0, rval := 0, rbatt := s.cfg.battInit }
      (.fill :: List.replicate 9 .bar) 178 :=
  .uninit hp <| .reset rfl <| .fillTest rfl <| .bars 8 rfl rfl <| .lastBar rfl rfl <| .cleared rfl <| .refl _

/-- Settles O42: the run of 13 STEPs, with its end, its pauses and its transactions counted. -/
theorem startupReachesRendering : Obligations.StartupReachesRendering := by
  intro s hm hp
  obtain ⟨t, es, ht, hseq, htrace, hps, htxns⟩ := (advances_startup (s := s.sequencer) hp).stepTimes rfl hm
  have hmode : t.sequencer.mode = .sequencing := by rw [hseq, ← hm]; rfl
  have hphase : t.sequencer.phase = .rendering := by rw [hseq]
  have hrval : t.sequencer.rval = 0 := by rw [hseq]
  have hrbatt : t.sequencer.rbatt = s.cfg.battInit := by rw [hseq]; rfl
  exact ⟨t, es, ht, hmode, hphase, hrval, hrbatt, htrace, hps, htxns⟩

/-! ## The counting loop -/

/-- In RENDERING the transitions count the value and toggle the flag, and nothing else (R160). -/
theorem advances_rendering {s : State} (hp : s.phase = .rendering) (n : Nat) :
    Advances n s { s with rbatt := Bool.not^[n] s.rbatt, rval := nextValue^[n] s.rval } (List.replicate n .render)
      (16 * n) := by
  induction n generalizing s with
  | zero => exact .refl s
  | succ n ih =>
    rw [Nat.mul_succ, Nat.add_comm (16 * n)]
    exact .rendering hp (ih (s := { s with rbatt := !s.rbatt, rval := nextValue s.rval }) hp)

/-- The value counts modulo 200 (R160, log entry 9). -/
theorem toNat_nextValue_iterate {v : Byte} (hv : v.toNat < 200) (n : Nat) :
    (nextValue^[n] v).toNat = (v.toNat + n) % 200 := by
  induction n with
  | zero => exact (Nat.mod_eq_of_lt hv).symm
  | succ n ih =>
    rw [Function.iterate_succ_apply', nextValue, BitVec.toNat_ofNat, ih, countModulus]
    omega

/-- Any number of STEPs runs in RENDERING, where the sequencer counts on. -/
theorem stepTimes_rendering {s : State} (hm : s.mode = .sequencing) (hp : s.phase = .rendering) (n : Nat) :
    ∃ t, stepTimes n s = .next t ∧ t.mode = .sequencing ∧ t.phase = .rendering ∧ t.rval = nextValue^[n] s.rval
      ∧ t.rbatt = Bool.not^[n] s.rbatt := by
  obtain ⟨t, es, ht, hseq, -⟩ := (advances_rendering (s := s.sequencer) hp n).stepTimes rfl hm
  have hmode : t.sequencer.mode = .sequencing := by rw [hseq, ← hm]; rfl
  have hphase : t.sequencer.phase = .rendering := by rw [hseq, ← hp]; rfl
  have hrval : t.sequencer.rval = nextValue^[n] s.rval := by rw [hseq]; rfl
  have hrbatt : t.sequencer.rbatt = Bool.not^[n] s.rbatt := by rw [hseq]; rfl
  exact ⟨t, ht, hmode, hphase, hrval, hrbatt⟩

/-- Settles O43: the value comes back after 200 counts, and the flag after 200 toggles. -/
theorem renderStateRepeats : Obligations.RenderStateRepeats := by
  refine fun s hm hp => ⟨fun n => ?stays, fun hv => ?repeats⟩
  case stays =>
    obtain ⟨t, ht, hmode, hphase, -⟩ := stepTimes_rendering hm hp n
    exact ⟨t, ht, hphase, hmode⟩
  case repeats =>
    obtain ⟨t, ht, -, -, hrval, hrbatt⟩ := stepTimes_rendering hm hp 200
    have hcount : nextValue^[200] s.rval = s.rval := by
      apply BitVec.eq_of_toNat_eq
      rw [toNat_nextValue_iterate hv, Nat.add_mod_right, Nat.mod_eq_of_lt hv]
    have htoggle : Bool.not^[200] s.rbatt = s.rbatt := by
      rw [Bool.involutive_not.iterate_even (by decide), id]
    exact ⟨t, ht, hrval.trans hcount, hrbatt.trans htoggle⟩

end Sys2Proof.Machine

/-!
SUPPORT. Errors never end a run (R181, R187), an idle block waits (R186), and the bus initialisation of START (R151, R183).
-/
namespace Sys2Proof.Machine

open Sys2Proof.Claims

/-! ## Every step goes on -/

/-- Every instruction has a next state: errors are STATUS reports (R181, R187). -/
theorem exec_goes_on (i : Instr) (s : State) : ∃ t, exec i s = .next t := by
  obtain ⟨-, t, ht, -⟩ := exec_did i s
  exact ⟨t, ht⟩

theorem runCommand_goes_on (w : Word) (s : State) : ∃ t, runCommand w s = .next t := by
  unfold runCommand
  split
  case h_1 i _ => exact exec_goes_on i s
  case h_2 => exact ⟨_, rfl⟩

theorem serveEvent_goes_on (e : PortEvent) (s : State) : ∃ t, serveEvent e s = .next t := by
  cases e with
  | command w => exact runCommand_goes_on w s
  | read rn => exact ⟨_, rfl⟩
  | resetN => exact ⟨_, rfl⟩
  | controllerPowerOn => exact ⟨_, rfl⟩
  | commandThenReset w n inFlight =>
    obtain ⟨t, ht⟩ := runCommand_goes_on w s
    exact ⟨resetDuring s t n inFlight, by rw [serveEvent, ht]⟩

theorem decodePayload_of_isBlockPayload {bs : List Byte} (h : isBlockPayload bs = true) : ∃ i, decodePayload bs = .ok i := by
  unfold isBlockPayload at h
  cases hd : decodePayload bs with
  | ok i => exact ⟨i, rfl⟩
  | error e => simp [hd, Except.isOk, Except.toBool] at h

/-- The block's own request is never refused (R67, R80). -/
theorem serveRequest_goes_on {q : BusRequest} (hdev : q.device = devAddr) (hp : isBlockPayload q.payload = true) (s : State) :
    ∃ t, serveRequest q s = .next t := by
  obtain ⟨i, hi⟩ := decodePayload_of_isBlockPayload hp
  rw [serveRequest_of_decode hdev hi]
  exact exec_goes_on i _

/-- Settles O52, by what stands on the ports: nothing, an event of the host, RESET_N, or the block's own request. -/
theorem stepAlwaysGoesOn : Obligations.StepAlwaysGoesOn := by
  intro s hport
  cases hb : s.busReq with
  | none =>
    cases hh : s.host with
    | nil => exact ⟨s, step_idle hb hh⟩
    | cons e rest =>
      rw [step_event hb hh]
      exact serveEvent_goes_on e _
  | some q =>
    by_cases hr : s.host.head? = some .resetN
    · obtain ⟨rest, hh⟩ := List.head?_eq_some_iff.1 hr
      exact ⟨_, step_resetN hh⟩
    · obtain ⟨hdev, hp⟩ := hport q hb
      rw [step_request hb hr]
      exact serveRequest_goes_on hdev hp s

/-- Settles O10, by what a step does when nothing stands on the ports. -/
theorem idleBlockWaits : Obligations.IdleBlockWaits := fun _ hb hh => step_idle hb hh

/-! ## START -/

theorem startBus_ok {s : State} (ha : s.initAnswer = .ok) :
    startBus s = { s.takeInit with mode := .sequencing, trace := s.trace ++ [.busInit .ok], status := 0x0000 } := by
  rw [startBus, busInit_eq, ha]
  rfl

theorem startBus_err {s : State} (ha : s.initAnswer = .err) :
    startBus s = { s.takeInit with mode := .failed, trace := s.trace ++ [.busInit .err], status := 0x0002 } := by
  rw [startBus, busInit_eq, ha]
  rfl

/-- Settles O32: the initialisation's two answers, the gate of R76, and START's one word. -/
theorem startInitialisesBus : Obligations.StartInitialisesBus :=
  ⟨fun _ hm ha => congrArg Host.Outcome.next ((unlessRefused_direct hm _).trans (startBus_ok ha)),
    fun _ hm ha => congrArg Host.Outcome.next ((unlessRefused_direct hm _).trans (startBus_err ha)),
    needsDirect_of_directGate fun _ => ⟨_, rfl⟩, wordRuns_of_encodeCommand rfl rfl,
    fun _ hop => reportsIllegal_of_ne_bareWord (op := 9) hop (by decide)⟩

end Sys2Proof.Machine

/-!
SUPPORT. Resets and hazards: a frame is spent by its WRF (R206), the two ways of sending one (R203), and a reset during a command
(R201).
-/
namespace Sys2Proof.Machine

open Sys2Proof.Claims

/-! ## A second WRF -/

/-- WRF leaves no frame in FB, whether it held one or not, and leaves MODE (R128, R130). -/
theorem writeHeldFrame_spendsFrame (s : State) : (writeHeldFrame s).fbValid = false ∧ (writeHeldFrame s).mode = s.mode := by
  cases hv : s.fbValid with
  | false => simp [writeHeldFrame, hv]
  | true =>
    obtain ⟨res, b, es, -, hsent⟩ := writeFrame_busRun s
    obtain ⟨w, hreport, -⟩ := reportWrite_status res .none { s.withBus b with fbValid := false }
    rw [writeHeldFrame, if_pos hv, hsent]
    dsimp only
    rw [hreport]
    exact ⟨rfl, rfl⟩

theorem exec_wrf_direct {s : State} (hm : s.mode = .direct) : exec .wrf s = .next (writeHeldFrame s) :=
  congrArg Host.Outcome.next (unlessRefused_direct hm _)

/-- Settles O29: the first WRF leaves DIRECT with no frame held, where WRF reports NO_FRAME. -/
theorem secondWrfReportsNoFrame : Obligations.SecondWrfReportsNoFrame := by
  intro s t hm ht
  obtain ⟨hv, hmode⟩ := writeHeldFrame_spendsFrame s
  cases (exec_wrf_direct hm).symm.trans ht
  exact exec_wrf_noFrame (hmode.trans hm) hv

/-! ## By hand and by the sequencer -/

/-- The writer reads no register: it does to the bus side what it does from any state with that bus side (R128). -/
theorem writeCells_withBus (f : Frame) (cs : List CellIdx) (s b : State) :
    writeCells f cs (s.withBus b) = ((writeCells f cs b).1, s.withBus (writeCells f cs b).2) := by
  induction cs generalizing b with
  | nil => rfl
  | cons c cs ih =>
    have hanswer : (s.withBus b).answerAt 0 = b.answerAt 0 := rfl
    have hafter : afterTxn (cellBytes c f[c]) (s.withBus b) = s.withBus (afterTxn (cellBytes c f[c]) b) := rfl
    simp only [writeCells, busWrite_eq, hanswer, hafter]
    cases b.answerAt 0 with
    | ok => exact ih _
    | err => rfl

/-- The two states show the same display RAM and the same transactions; pause requests may differ. -/
def State.SameSent (t u : State) : Prop := t.dram = u.dram ∧ txnsOf t.trace = txnsOf u.trace

theorem State.SameSent.symm {t u : State} (h : t.SameSent u) : u.SameSent t := ⟨h.1.symm, h.2.symm⟩

theorem State.SameSent.trans {t u v : State} (h : t.SameSent u) (h' : u.SameSent v) : t.SameSent v :=
  ⟨h.1.trans h'.1, h.2.trans h'.2⟩

/-- One frame, sent from two states that differ in registers only. -/
theorem sendFrame_sameSent (f : Frame) {s q : State} (hq : q.withBus s = q) :
    (sendFrame f s).2.SameSent (sendFrame f q).2 := by
  have hs := writeCells_withBus f allCells (loadFrame f s) s
  have hq' := writeCells_withBus f allCells (loadFrame f q) s
  rw [show (loadFrame f s).withBus s = loadFrame f s from rfl] at hs
  rw [show (loadFrame f q).withBus s = loadFrame f q from congrArg (loadFrame f) hq] at hq'
  simp only [sendFrame, writeFrame, loadFrame_fb, hs, hq']
  exact ⟨rfl, rfl⟩

/-- The end of a transition sends nothing (R152, R153). -/
theorem finishTransition_sameSent (res : WriteResult) (kind : PauseKind) (s : State) :
    (finishTransition res kind s).SameSent s := by
  obtain ⟨w, hreport, -⟩ := reportWrite_status res kind (requestPause kind s)
  rw [finishTransition, hreport, requestPause_eq]
  refine ⟨rfl, ?_⟩
  rw [txnsOf_append]
  cases kind <;> exact List.append_nil _

theorem writeHeldFrame_sameSent {s : State} (hv : s.fbValid = true) :
    (writeHeldFrame s).SameSent (sendFrame s.fb s).2 := by
  rw [writeHeldFrame_held hv]
  exact finishTransition_sameSent _ _ _

/-- A transition that sends a frame sends nothing else. -/
theorem transition_sameSent {s : State} {f : Frame} (hf : stepFrame s = some f) :
    (transition s).SameSent (sendFrame f s).2 := by
  cases hp : s.phase with
  | uninit | cleared => simp [stepFrame, hp] at hf
  | reset | fillTest | rendering =>
    simp only [stepFrame, transition, hp, Option.some.injEq] at hf ⊢
    rw [← hf]
    exact finishTransition_sameSent _ _ _
  | bar =>
    simp only [stepFrame, transition, hp, Option.some.injEq] at hf ⊢
    rw [← hf]
    split <;> exact finishTransition_sameSent _ _ _

/-- A build command and WRF in DIRECT send what a STEP sends from a state `q` with the same bus side, if the transition's frame is
the one built. -/
theorem builtFrame_sameSent_step {i : Instr} {f : Frame} {s q t u : State} (hm : s.mode = .direct)
    (hbuild : exec i s = .next (buildFrame f s)) (hq : q.withBus s = q) (hqm : q.mode = .sequencing)
    (hf : stepFrame q = some f) (ht : execBoth i .wrf s = .next t) (hu : exec .step q = .next u) : t.SameSent u := by
  have hbuilt := buildFrame_direct f hm
  have hhand : execBoth i .wrf s = .next (writeHeldFrame (buildFrame f s)) := by
    rw [execBoth, hbuild]
    exact exec_wrf_direct (by rw [hbuilt]; exact hm)
  have hsent : (writeHeldFrame (buildFrame f s)).SameSent (sendFrame f q).2 := by
    rw [hbuilt]
    exact (writeHeldFrame_sameSent rfl).trans (sendFrame_sameSent f hq)
  cases hhand.symm.trans ht
  cases (exec_step_sequencing hqm).symm.trans hu
  exact hsent.trans (transition_sameSent hf).symm

/-- CRST in DIRECT and STEP from UNINIT send the same pair, with the same answers (R129, R131, R154). -/
theorem crst_sameSent_step {s q t u : State} (hm : s.mode = .direct) (hq : q.withBus s = q) (hqm : q.mode = .sequencing)
    (hp : q.phase = .uninit) (ht : exec .crst s = .next t) (hu : exec .step q = .next u) : t.SameSent u := by
  cases (congrArg Host.Outcome.next (unlessRefused_direct hm writeReset)).symm.trans ht
  cases (exec_step_sequencing hqm).symm.trans hu
  rw [transition_uninit hp, toReset_eq, writeReset_eq, ← hq]
  exact ⟨rfl, rfl⟩

/-- Settles O44: the reset pair, and five times one frame built by hand and by the transition. -/
theorem handAndSequencerSendTheSame : Obligations.HandAndSequencerSendTheSame := by
  intro s t u hm
  refine ⟨crst_sameSent_step hm rfl rfl rfl, builtFrame_sameSent_step hm rfl rfl rfl rfl,
    builtFrame_sameSent_step hm (exec_bbar (by decide) s) rfl rfl rfl, fun k hk => ?nextBar,
    builtFrame_sameSent_step hm rfl rfl rfl rfl, fun v b => builtFrame_sameSent_step hm rfl rfl rfl rfl⟩
  have hnext : (k + 1).toNat = k.toNat + 1 := by
    rw [BitVec.toNat_add]
    exact Nat.mod_eq_of_lt (by simp; omega)
  refine builtFrame_sameSent_step hm (exec_bbar (by omega) s) rfl rfl ?_
  rw [hnext]
  simp [stepFrame, hk]

/-! ## A reset during a command -/

/-- A block reset gives every register R36's value and frees the port; the parameters and the host's events stay (R200, R201). -/
theorem blockReset_registers (s : State) :
    BlockAtReset (blockReset s) ∧ (blockReset s).busReq = none ∧ (blockReset s).cfg = s.cfg
      ∧ (blockReset s).host = s.host := by
  cases hq : s.busReq with
  | none =>
    rw [blockReset_idle hq]
    simp [BlockAtReset, State.reset]
  | some q =>
    rw [blockReset_inFlight hq]
    simp [BlockAtReset, State.reset]

/-- The state in which RESET_N finds the machine: `next` is on its port if the command had issued it (R201). -/
def interrupted (next : Option Event) (inFlight : Bool) (s : State) : State :=
  if inFlight then leaveInFlight next s else s

/-- `s` after the first n events of a command that takes it to `u`. -/
def reached (s u : State) (n : Nat) : State :=
  { replay ((u.trace.drop s.trace.length).take n) s with draws := u.draws }

theorem resetDuring_eq (s u : State) (n : Nat) (inFlight : Bool) :
    resetDuring s u n inFlight
      = blockReset (interrupted (u.trace.drop s.trace.length)[n]? inFlight (reached s u n)) := rfl

/-- What a command leaves in flight does not touch the parameters or the host's events. -/
theorem interrupted_keeps (next : Option Event) (inFlight : Bool) (s : State) :
    (interrupted next inFlight s).cfg = s.cfg ∧ (interrupted next inFlight s).host = s.host := by
  match inFlight, next with
  | false, _ | true, none | true, some (.pause _) | true, some (.txn _ _) => exact ⟨rfl, rfl⟩
  | true, some (.busInit _) =>
    simp only [interrupted, leaveInFlight, if_true]
    split <;> exact ⟨rfl, rfl⟩

/-- Wherever a reset cuts a command, the registers are as after any reset (R201). -/
theorem resetDuring_registers (s u : State) (n : Nat) (inFlight : Bool) :
    BlockAtReset (resetDuring s u n inFlight) ∧ (resetDuring s u n inFlight).busReq = none
      ∧ (resetDuring s u n inFlight).cfg = s.cfg ∧ (resetDuring s u n inFlight).host = s.host := by
  rw [resetDuring_eq]
  obtain ⟨hcfg, hhost⟩ := interrupted_keeps (u.trace.drop s.trace.length)[n]? inFlight (reached s u n)
  obtain ⟨hreset, hport, hcfg', hhost'⟩ := blockReset_registers
    (interrupted (u.trace.drop s.trace.length)[n]? inFlight (reached s u n))
  exact ⟨hreset, hport, hcfg'.trans hcfg, hhost'.trans hhost⟩

/-- What the trace records of the command's next event, cut by the reset: a transaction in flight counts as Err, and nothing else
is recorded (R201, log entry 7). -/
def abandoned (inFlight : Bool) (next : Option Event) : List Event :=
  match inFlight, next with
  | true, some (.txn p _) => [.txn p .err]
  | _, _ => []

/-- A block reset records the transaction in flight, and its effect on the display RAM is that of an Err (R201). -/
theorem blockReset_interrupted {next : Option Event} {inFlight : Bool} {s : State} (hb : s.busReq = none)
    (hinit : ∀ r, inFlight = true → next ≠ some (.busInit r)) :
    (blockReset (interrupted next inFlight s)).trace = s.trace ++ abandoned inFlight next
      ∧ (blockReset (interrupted next inFlight s)).dram = (abandoned inFlight next).foldl Event.deliver s.dram := by
  match inFlight, next with
  | true, some (.busInit r) => exact absurd rfl (hinit r rfl)
  | true, some (.txn p r) =>
    have hq : (interrupted (some (.txn p r)) true s).busReq = some ⟨devAddr, p, s.cfg.busTimeout⟩ := rfl
    rw [blockReset_inFlight hq]
    exact ⟨rfl, rfl⟩
  | false, _ | true, none | true, some (.pause _) =>
    show (blockReset s).trace = s.trace ++ [] ∧ (blockReset s).dram = s.dram
    rw [blockReset_idle hb, List.append_nil]
    exact ⟨rfl, rfl⟩

/-- The events of a command that a reset cuts: the first n of those it would have emitted, then the one in flight (R201). -/
theorem resetDuring_events {s u : State} {es : List Event} {n : Nat} {inFlight : Bool} (hb : s.busReq = none)
    (hu : u.trace = s.trace ++ es) (hinit : ∀ r, inFlight = true → es[n]? ≠ some (.busInit r)) :
    (resetDuring s u n inFlight).trace = s.trace ++ es.take n ++ abandoned inFlight es[n]?
      ∧ (resetDuring s u n inFlight).dram = (es.take n ++ abandoned inFlight es[n]?).foldl Event.deliver s.dram := by
  have hes : u.trace.drop s.trace.length = es := by rw [hu, List.drop_left]
  have htrace : (reached s u n).trace = s.trace ++ es.take n := by rw [← hes]; rfl
  have hdram : (reached s u n).dram = (es.take n).foldl Event.deliver s.dram := by rw [← hes]; rfl
  rw [resetDuring_eq, hes, List.foldl_append, ← htrace, ← hdram]
  exact blockReset_interrupted (s := reached s u n) hb hinit

theorem step_commandThenReset {s u : State} {w : Word} {n : Nat} {inFlight : Bool} {rest : List PortEvent} {i : Instr}
    (hb : s.busReq = none) (hh : s.host = .commandThenReset w n inFlight :: rest) (hd : decodeCommand w = .ok i)
    (hu : exec i { s with host := rest } = .next u) :
    step s = .next (resetDuring { s with host := rest } u n inFlight) := by
  rw [step_event hb hh, serveEvent, runCommand_of_decode hd, hu]

/-- Settles O54: the registers and the events of a cut command, and of a reset with a request in flight. -/
theorem resetDuringCommand : Obligations.ResetDuringCommand := by
  refine ⟨fun s u w n inFlight rest i es hb hh hd hu htrace hinit => ?cut, fun s q rest hq hh => ?inFlight⟩
  case cut =>
    obtain ⟨hreset, hport, hcfg, hhost⟩ := resetDuring_registers { s with host := rest } u n inFlight
    exact ⟨_, step_commandThenReset hb hh hd hu, hreset, hport, hcfg, hhost,
      resetDuring_events (s := { s with host := rest }) hb htrace hinit⟩
  case inFlight =>
    obtain ⟨hreset, hport, -, hhost⟩ := blockReset_registers { s with host := rest }
    refine ⟨_, step_resetN hh, hreset, hport, hhost, ?_⟩
    rw [blockReset_inFlight (s := { s with host := rest }) hq]
    exact ⟨rfl, rfl⟩

end Sys2Proof.Machine
